-- ==== Sys2Proof/Word.lean ====
section
/-! DEFINITION. The word types of the timer core (spec/00_scope.md R5: every value is unsigned, bit 0 is the
least significant; spec/30_encoding.md R55: a command is 96 bits, a response 64). -/

namespace Sys2Proof

/-- One byte of a serialised word (R41). -/
abbrev Byte := BitVec 8

/-- One register word: "Every register is carried as a 32-bit word on the register bus" (R25). -/
abbrev Word := BitVec 32

/-- One command word (R55). -/
abbrev CommandWord := BitVec 96

/-- One response word (R60). -/
abbrev ResponseWord := BitVec 64

end Sys2Proof
end

