-- ==== Sys2Proof/Syntax.lean ====
section
/-! DEFINITION. The 21 commands of spec/30_encoding.md R62 as one inductive type, with the operands of R58.
Raw fields end at the decoder: a channel is one of four names, an event one of one. -/

namespace Sys2Proof

/-- The closed set of four channels (R58, R7: "an enumerated, closed set of four identifiers"). -/
inductive Channel where
  | ch1
  | ch2
  | ch3
  | ch4
  deriving DecidableEq, Repr

/-- The channel's number c in 1..4 (R58: `c = CH + 1`). -/
def Channel.number : Channel → Nat
  | .ch1 => 1
  | .ch2 => 2
  | .ch3 => 3
  | .ch4 => 4

/-- The closed set of interrupt events, "currently exactly one variant" (R7, R58). -/
inductive Event where
  | update
  deriving DecidableEq, Repr

/-- A command (R62). The target frequency `f` and the duty value `v` are the ARG field, `clk` is CLK, `div` is DIV
and `pv` is PV (R58). -/
inductive Instr where
  | compute (f clk : Word) (div : Byte)
  | newTimer (f clk : Word) (div : Byte)
  | newPwm (f clk : Word) (div : Byte) (pv : BitVec 4)
  | free
  | start (f : Word)
  | setFreq (f : Word)
  | pause
  | resume
  | resetCounter
  | counter
  | wait
  | clearUif
  | listen (ev : Event)
  | unlisten (ev : Event)
  | enable (c : Channel)
  | disable (c : Channel)
  | getDuty (c : Channel)
  | setDuty (c : Channel) (v : Word)
  | getMaxDuty
  | setPeriod (f : Word)
  | getPeriod
  deriving DecidableEq, Repr

/-- The mnemonic of R62. -/
def Instr.mnemonic : Instr → String
  | .compute _ _ _ => "COMPUTE"
  | .newTimer _ _ _ => "NEW_TIMER"
  | .newPwm _ _ _ _ => "NEW_PWM"
  | .free => "FREE"
  | .start _ => "START"
  | .setFreq _ => "SET_FREQ"
  | .pause => "PAUSE"
  | .resume => "RESUME"
  | .resetCounter => "RESET_COUNTER"
  | .counter => "COUNTER"
  | .wait => "WAIT"
  | .clearUif => "CLEAR_UIF"
  | .listen _ => "LISTEN"
  | .unlisten _ => "UNLISTEN"
  | .enable _ => "ENABLE"
  | .disable _ => "DISABLE"
  | .getDuty _ => "GET_DUTY"
  | .setDuty _ _ => "SET_DUTY"
  | .getMaxDuty => "GET_MAX_DUTY"
  | .setPeriod _ => "SET_PERIOD"
  | .getPeriod => "GET_PERIOD"

end Sys2Proof
end

