-- ==== Sys2Proof/WellFormed.lean ====
section
/-! DEFINITION. Which 96-bit words are commands, said from spec/opcode_table.json's masks and matches and R57's
"a word w belongs to a command iff `(w AND mask) = match`", independently of the decoder, which reads the fields
of R56. Every term of `Instr` is well formed by its types (log 20), so the checks stand on words. -/

namespace Sys2Proof

/-- One row of the opcode table. -/
structure OpcodeRow where
  mnemonic : String
  mask : CommandWord
  pattern : CommandWord
  deriving DecidableEq, Repr

/-- The rows of the calculator and the lifecycle (R62, R57). -/
def lifecycleRows : List OpcodeRow :=
  [ ⟨"COMPUTE", 0x00000000_00000000_FFFF00FF, 0x00000000_00000000_00000001⟩,
    ⟨"NEW_TIMER", 0x00000000_00000000_FFFF00FF, 0x00000000_00000000_00000002⟩,
    ⟨"NEW_PWM", 0x00000000_00000000_FFF000FF, 0x00000000_00000000_00000003⟩,
    ⟨"FREE", 0xFFFFFFFF_FFFFFFFF_FFFFFFFF, 0x00000000_00000000_00000004⟩ ]

/-- The rows of the Periodic Timer and the interrupt mask (R62, R57). -/
def timerRows : List OpcodeRow :=
  [ ⟨"START", 0xFFFFFFFF_00000000_FFFFFFFF, 0x00000000_00000000_00000005⟩,
    ⟨"SET_FREQ", 0xFFFFFFFF_00000000_FFFFFFFF, 0x00000000_00000000_00000006⟩,
    ⟨"PAUSE", 0xFFFFFFFF_FFFFFFFF_FFFFFFFF, 0x00000000_00000000_00000007⟩,
    ⟨"RESUME", 0xFFFFFFFF_FFFFFFFF_FFFFFFFF, 0x00000000_00000000_00000008⟩,
    ⟨"RESET_COUNTER", 0xFFFFFFFF_FFFFFFFF_FFFFFFFF, 0x00000000_00000000_00000009⟩,
    ⟨"COUNTER", 0xFFFFFFFF_FFFFFFFF_FFFFFFFF, 0x00000000_00000000_0000000A⟩,
    ⟨"WAIT", 0xFFFFFFFF_FFFFFFFF_FFFFFFFF, 0x00000000_00000000_0000000B⟩,
    ⟨"CLEAR_UIF", 0xFFFFFFFF_FFFFFFFF_FFFFFFFF, 0x00000000_00000000_0000000C⟩,
    ⟨"LISTEN", 0xFFFFFFFF_FFFFFFFF_FFFFFF7F, 0x00000000_00000000_0000000D⟩,
    ⟨"UNLISTEN", 0xFFFFFFFF_FFFFFFFF_FFFFFF7F, 0x00000000_00000000_0000000E⟩ ]

/-- The rows of the PWM Controller (R62, R57). -/
def pwmRows : List OpcodeRow :=
  [ ⟨"ENABLE", 0xFFFFFFFF_FFFFFFFF_FFFFFF9F, 0x00000000_00000000_00000010⟩,
    ⟨"DISABLE", 0xFFFFFFFF_FFFFFFFF_FFFFFF9F, 0x00000000_00000000_00000011⟩,
    ⟨"GET_DUTY", 0xFFFFFFFF_FFFFFFFF_FFFFFF9F, 0x00000000_00000000_00000012⟩,
    ⟨"SET_DUTY", 0xFFFFFFFF_00000000_FFFFFF9F, 0x00000000_00000000_00000013⟩,
    ⟨"GET_MAX_DUTY", 0xFFFFFFFF_FFFFFFFF_FFFFFFFF, 0x00000000_00000000_00000014⟩,
    ⟨"SET_PERIOD", 0xFFFFFFFF_00000000_FFFFFFFF, 0x00000000_00000000_00000015⟩,
    ⟨"GET_PERIOD", 0xFFFFFFFF_FFFFFFFF_FFFFFFFF, 0x00000000_00000000_00000016⟩ ]

/-- The whole opcode table: 21 rows (R62). -/
def opcodeTable : List OpcodeRow := lifecycleRows ++ timerRows ++ pwmRows

/-- The word is one of the row's command, as far as masks say (R57). -/
def OpcodeRow.owns (r : OpcodeRow) (w : CommandWord) : Bool := w &&& r.mask == r.pattern

/-- Check 1: some row of the table owns the word; a reserved opcode or a nonzero must-be-zero field fails it (R57, R65). -/
def inTable (w : CommandWord) : Bool := opcodeTable.any (·.owns w)

/-- Check 2: LISTEN and UNLISTEN name the one event; EV = 1 is reserved (R63 step 3, R65). -/
def eventLegal (w : CommandWord) : Bool :=
  !((w.extractLsb' 0 5 == 0x0D || w.extractLsb' 0 5 == 0x0E) && w.getLsbD 7)

/-- The word is a command (R63): every other word is illegal (R66). -/
def WellFormed (w : CommandWord) : Bool := inTable w && eventLegal w

end Sys2Proof
end

