-- ==== Sys2Proof/Decode.lean ====
section
/-! DEFINITION. The command encoding of spec/30_encoding.md R56 to R66 and the byte order of
spec/20_memory.md R41: a decoder that is total on any bytes and rejects by name, and the encoder, written from
the same field table. -/

namespace Sys2Proof

/-- The fields of a command word (R56). -/
structure Fields where
  op : BitVec 5
  ch : BitVec 2
  ev : BitVec 1
  div : Byte
  pv : BitVec 4
  zero : BitVec 12
  arg : Word
  clk : Word
  deriving DecidableEq, Repr

/-- The fields at the bit positions of R56. -/
def Fields.ofWord (w : CommandWord) : Fields where
  op := w.extractLsb' 0 5
  ch := w.extractLsb' 5 2
  ev := w.extractLsb' 7 1
  div := w.extractLsb' 8 8
  pv := w.extractLsb' 16 4
  zero := w.extractLsb' 20 12
  arg := w.extractLsb' 32 32
  clk := w.extractLsb' 64 32

/-- The word that has these fields (R56), CLK in the high bits. -/
def Fields.word (x : Fields) : CommandWord :=
  x.clk ++ x.arg ++ x.zero ++ x.pv ++ x.div ++ x.ev ++ x.ch ++ x.op

/-- A channel from the CH field: 0 = Ch1 .. 3 = Ch4 (R56, R58). -/
def Channel.ofBits (b : BitVec 2) : Channel :=
  if b = 0 then .ch1 else if b = 1 then .ch2 else if b = 2 then .ch3 else .ch4

/-- The CH field of a channel (R56). -/
def Channel.bits : Channel → BitVec 2
  | .ch1 => 0
  | .ch2 => 1
  | .ch3 => 2
  | .ch4 => 3

/-- Which fields besides OP a format uses (R57). -/
structure Uses where
  ch : Bool := false
  ev : Bool := false
  div : Bool := false
  pv : Bool := false
  arg : Bool := false
  clk : Bool := false
  deriving DecidableEq, Repr

/-- Format N: OP only (R57). -/
def formatN : Uses := {}
/-- Format C: OP, CH (R57). -/
def formatC : Uses := { ch := true }
/-- Format CV: OP, CH, ARG (R57). -/
def formatCV : Uses := { ch := true, arg := true }
/-- Format F: OP, ARG (R57). -/
def formatF : Uses := { arg := true }
/-- Format E: OP, EV (R57). -/
def formatE : Uses := { ev := true }
/-- Format K: OP, DIV, ARG, CLK (R57). -/
def formatK : Uses := { div := true, arg := true, clk := true }
/-- Format KP: OP, DIV, PV, ARG, CLK (R57). -/
def formatKP : Uses := { div := true, pv := true, arg := true, clk := true }

/-- Every field the format does not use, and ZERO always, is zero (R57, R63 step 2). -/
def unusedZero (u : Uses) (x : Fields) : Bool :=
  (u.ch || x.ch == 0) && (u.ev || x.ev == 0) && (u.div || x.div == 0) && (u.pv || x.pv == 0) &&
    (u.arg || x.arg == 0) && (u.clk || x.clk == 0) && x.zero == 0

/-- Why bytes are not a command, by name. -/
inductive DecodeError where
  /-- fewer than 96 bits: not a command, the block waits (R42). -/
  | incomplete
  /-- OP is not one of the 21 opcodes (R63 step 1, R65). -/
  | reservedOpcode
  /-- a must-be-zero field is not zero (R63 step 2). -/
  | mustBeZero
  /-- EV = 1 in LISTEN or UNLISTEN (R63 step 3). -/
  | reservedEvent
  deriving DecidableEq, Repr

/-- What the decoder answers. -/
inductive Decoded where
  | command (i : Instr)
  | rejected (why : DecodeError)
  deriving DecidableEq, Repr

/-- Step 2 of R63 for a format without an event. -/
def decodeAs (u : Uses) (x : Fields) (i : Instr) : Decoded :=
  if unusedZero u x then .command i else .rejected .mustBeZero

/-- Steps 2 and 3 of R63 for format E: EV = 0 is Update, EV = 1 is reserved. -/
def decodeEvent (x : Fields) (i : Event → Instr) : Decoded :=
  if unusedZero formatE x then
    if x.ev = 0 then .command (i .update) else .rejected .reservedEvent
  else .rejected .mustBeZero

/-- The opcode map (R62) and the decoding order (R63). -/
def decodeFields (x : Fields) : Decoded :=
  match x.op.toNat with
  | 0x01 => decodeAs formatK x (.compute x.arg x.clk x.div)
  | 0x02 => decodeAs formatK x (.newTimer x.arg x.clk x.div)
  | 0x03 => decodeAs formatKP x (.newPwm x.arg x.clk x.div x.pv)
  | 0x04 => decodeAs formatN x .free
  | 0x05 => decodeAs formatF x (.start x.arg)
  | 0x06 => decodeAs formatF x (.setFreq x.arg)
  | 0x07 => decodeAs formatN x .pause
  | 0x08 => decodeAs formatN x .resume
  | 0x09 => decodeAs formatN x .resetCounter
  | 0x0A => decodeAs formatN x .counter
  | 0x0B => decodeAs formatN x .wait
  | 0x0C => decodeAs formatN x .clearUif
  | 0x0D => decodeEvent x .listen
  | 0x0E => decodeEvent x .unlisten
  | 0x10 => decodeAs formatC x (.enable (.ofBits x.ch))
  | 0x11 => decodeAs formatC x (.disable (.ofBits x.ch))
  | 0x12 => decodeAs formatC x (.getDuty (.ofBits x.ch))
  | 0x13 => decodeAs formatCV x (.setDuty (.ofBits x.ch) x.arg)
  | 0x14 => decodeAs formatN x .getMaxDuty
  | 0x15 => decodeAs formatF x (.setPeriod x.arg)
  | 0x16 => decodeAs formatN x .getPeriod
  | _ => .rejected .reservedOpcode

/-- The decoder on a whole command word (R63): "every 96-bit word is either exactly one command or illegal". -/
def decodeWord (w : CommandWord) : Decoded := decodeFields (.ofWord w)

/-- One 32-bit word from its four bytes, least significant first (R41). -/
def wordOfBytes (b0 b1 b2 b3 : Byte) : Word := b3 ++ b2 ++ b1 ++ b0

/-- The first command word of a byte stream and the bytes after it; none while fewer than 96 bits have arrived
(R42). W0 comes first (R41). -/
def takeCommand : List Byte → Option (CommandWord × List Byte)
  | a0 :: a1 :: a2 :: a3 :: b0 :: b1 :: b2 :: b3 :: c0 :: c1 :: c2 :: c3 :: rest =>
    some (wordOfBytes c0 c1 c2 c3 ++ wordOfBytes b0 b1 b2 b3 ++ wordOfBytes a0 a1 a2 a3, rest)
  | _ => none

/-- The decoder on bytes, total: the first command word of the stream. -/
def decode (bytes : List Byte) : Decoded :=
  match takeCommand bytes with
  | some (w, _) => decodeWord w
  | none => .rejected .incomplete

/-- The four bytes of a 32-bit word, least significant first (R41). -/
def bytesOfWord (w : Word) : List Byte :=
  [w.extractLsb' 0 8, w.extractLsb' 8 8, w.extractLsb' 16 8, w.extractLsb' 24 8]

/-- The twelve bytes of a command word: W0, W1, W2, each little-endian (R41). -/
def commandBytes (w : CommandWord) : List Byte :=
  bytesOfWord (w.extractLsb' 0 32) ++ bytesOfWord (w.extractLsb' 32 32) ++ bytesOfWord (w.extractLsb' 64 32)

/-- A word with only an opcode (format N). -/
def fieldsN (op : BitVec 5) : Fields :=
  { op := op, ch := 0, ev := 0, div := 0, pv := 0, zero := 0, arg := 0, clk := 0 }

/-- The EV field of an event (R58). -/
def Event.bits : Event → BitVec 1
  | .update => 0

/-- The fields of a command (R57, R62): every field its format does not use is zero. -/
def encodeFields : Instr → Fields
  | .compute f clk div => { fieldsN 0x01 with arg := f, clk := clk, div := div }
  | .newTimer f clk div => { fieldsN 0x02 with arg := f, clk := clk, div := div }
  | .newPwm f clk div pv => { fieldsN 0x03 with arg := f, clk := clk, div := div, pv := pv }
  | .free => fieldsN 0x04
  | .start f => { fieldsN 0x05 with arg := f }
  | .setFreq f => { fieldsN 0x06 with arg := f }
  | .pause => fieldsN 0x07
  | .resume => fieldsN 0x08
  | .resetCounter => fieldsN 0x09
  | .counter => fieldsN 0x0A
  | .wait => fieldsN 0x0B
  | .clearUif => fieldsN 0x0C
  | .listen ev => { fieldsN 0x0D with ev := ev.bits }
  | .unlisten ev => { fieldsN 0x0E with ev := ev.bits }
  | .enable c => { fieldsN 0x10 with ch := c.bits }
  | .disable c => { fieldsN 0x11 with ch := c.bits }
  | .getDuty c => { fieldsN 0x12 with ch := c.bits }
  | .setDuty c v => { fieldsN 0x13 with ch := c.bits, arg := v }
  | .getMaxDuty => fieldsN 0x14
  | .setPeriod f => { fieldsN 0x15 with arg := f }
  | .getPeriod => fieldsN 0x16

/-- The command word of a command. -/
def encode (i : Instr) : CommandWord := (encodeFields i).word

/-- A table word of `nbits` bits as a command word: the bits above `nbits` are zero. -/
def tableWord (nbits w : Nat) : CommandWord := BitVec.ofNat 96 (w % 2 ^ nbits)

/-- The host's question: the instruction the decoder reads from the table's word `w`. -/
def decodeTableWord (nbits w : Nat) : Option Instr :=
  match decode (commandBytes (tableWord nbits w)) with
  | .command i => some i
  | .rejected _ => none

end Sys2Proof
end

