-- ==== Sys2Proof/Config.lean ====
section
/-! DEFINITION. The parameters the spec leaves OPEN (spec/00_scope.md R4: "A model takes each `OPEN` one as an
argument"). State carries them as a part no step changes, so every statement about a state is a statement about
every choice of them. -/

namespace Sys2Proof

/-- The parameter W of R4: "`OPEN`, one of 16 or 32". -/
inductive Width where
  | w16
  | w32
  deriving DecidableEq, Repr

/-- W as a number of bits. -/
def Width.bits : Width → Nat
  | .w16 => 16
  | .w32 => 32

/-- The parameter OVERRUN_POLICY of R4: what a counter tick does when CNT >= ARR (R153). -/
inductive OverrunPolicy where
  | fault
  | wrapNow
  | countToMax
  deriving DecidableEq, Repr

/-- The block's parameters, fixed for one machine. -/
structure Config where
  width : Width
  overrun : OverrunPolicy
  deriving DecidableEq, Repr

/-- The parameters of the machine `State.reset` describes.
DESIGN CHOICE: W = 16 (log 1) and the recommended OVERRUN_POLICY, Fault (log 2). -/
def Config.chosen : Config := { width := .w16, overrun := .fault }

end Sys2Proof
end

