-- ==== Sys2Proof/Machine/State.lean ====
section
/-! DEFINITION. The state of one block (spec/10_state.md), as plain data, and its value after the block reset
(R34, R200). Each field is stored once; the register words of R25 are computed from the fields (Ops.lean). -/

namespace Sys2Proof.Machine

/-- OWNER (R13): whether the timer resource is held and by which component. -/
inductive Owner where
  | unowned
  | timer
  | pwm
  deriving DecidableEq, Repr

/-- The register block by register index (R25). -/
inductive RegIdx where
  | cr
  | ier
  | sr
  | ccmr1
  | ccmr2
  | cnt
  | psc
  | arr
  | ccr (c : Channel)
  deriving DecidableEq, Repr

/-- The register numbering of R25: 0..11. -/
def RegIdx.index : RegIdx → Nat
  | .cr => 0
  | .ier => 1
  | .sr => 2
  | .ccmr1 => 3
  | .ccmr2 => 4
  | .cnt => 5
  | .psc => 6
  | .arr => 7
  | .ccr c => 7 + c.number

/-- One event of the output trace (R33): the three BUSCTL calls and a register write REGW(index, value). -/
inductive OutEvent where
  | busEnable
  | busResetAssert
  | busResetClear
  | regw (r : RegIdx) (v : Word)
  deriving DecidableEq, Repr

/-- The STATUS of a response (R170). -/
inductive Status where
  | ok
  | wouldBlock
  | errFreqRange
  | errNotOwned
  | errAlreadyOwned
  | errWrongMode
  | errIllegalEncoding
  | errOperand
  | errPin
  deriving DecidableEq, Repr

/-- The response to one command (R60). -/
structure Response where
  status : Status
  cause : BitVec 4
  value : Word
  deriving DecidableEq, Repr

/-- `respond(OK, v)` (R5). -/
def Response.okay (v : Word) : Response := { status := .ok, cause := 0, value := v }

/-- The response of `raise st(cause)` (R171), and of WOULD_BLOCK (R116): VALUE = 0. -/
def Response.refusal (st : Status) (cause : BitVec 4) : Response := { status := st, cause := cause, value := 0 }

/-- The registers of one channel: CCR (R22), the hidden active compare value CCRA (R26), OCM (R23), OCPE (R24). -/
structure Chan where
  ccr : Word
  ccra : Word
  ocm : BitVec 3
  ocpe : Bool
  deriving DecidableEq, Repr

/-- A channel after either reset (R34): duty 0, NoMode, Disabled. -/
def Chan.reset : Chan := { ccr := 0, ccra := 0, ocm := 0, ocpe := false }

/-- Who moves next: the two agents of R6 and the platform's block reset RST (R200). -/
inductive Agent where
  | host
  | tick
  | rst
  deriving DecidableEq, Repr

/-- The state of one block (R10), the parameters of R4 (`cfg`), and the model's own fields: the bytes on the
command port (`port`), the agents that move next (`sched`) and the responses given (`responses`). -/
structure State where
  cfg : Config
  owner : Owner
  snapClk : Word
  snapDiv : Byte
  freq : Word
  cen : Bool
  uie : Bool
  uif : Bool
  cnt : Word
  psc : BitVec 16
  arr : Word
  ch1 : Chan
  ch2 : Chan
  ch3 : Chan
  ch4 : Chan
  undef : Bool
  trace : List OutEvent
  responses : List Response
  port : List Byte
  sched : List Agent
  deriving DecidableEq, Repr

/-- Why a step stops. -/
inductive Fault where
  /-- Raised by a HOST move while UNDEF = 1 (R29: "While UNDEF = 1 the spec says nothing about the block"). Safe: the
  model stops where the spec claims nothing (log 3). -/
  | blockUndefined
  deriving DecidableEq, Repr

/-- Why a command has no meaning. -/
inductive Refusal where
  /-- Raised only by an arm of exec whose instruction has no meaning yet; no arm of this model does. Safe. -/
  | notModelled (mnemonic : String)
  deriving DecidableEq, Repr

/-- What one step or one command answers. -/
abbrev Result := Host.Outcome State Fault Refusal

/-- PSC after either reset. The spec leaves it unspecified (R20, R34). PRESUMED: the family's value 0 (log 4). -/
def resetPsc : BitVec 16 := 0

/-- ARR after either reset. The spec leaves it unspecified (R21, R34). PRESUMED: the family's value, all W bits one
(log 4). -/
def resetArr : Width → Word
  | .w16 => 0xFFFF
  | .w32 => 0xFFFFFFFF

/-- The state after the block reset (R34, R200) of a block with parameters `cfg`. SNAP_CLK, SNAP_DIV and FREQ are
unspecified there. DESIGN CHOICE: zero (log 5). The port, the schedule and the responses are empty (logs 6, 7, 8). -/
def State.resetOf (cfg : Config) : State where
  cfg := cfg
  owner := .unowned
  snapClk := 0
  snapDiv := 0
  freq := 0
  cen := false
  uie := false
  uif := false
  cnt := 0
  psc := resetPsc
  arr := resetArr cfg.width
  ch1 := .reset
  ch2 := .reset
  ch3 := .reset
  ch4 := .reset
  undef := false
  trace := []
  responses := []
  port := []
  sched := []

/-- The machine right after reset. DESIGN CHOICE: W = 16 and OVERRUN_POLICY = Fault (logs 1, 2). -/
def State.reset : State := State.resetOf .chosen

end Sys2Proof.Machine
end

