-- ==== Sys2Proof/Machine/Operands.lean ====
section
/-! DEFINITION. The operand checks and the response encoding: the duty width (spec/43_pwm_ops.md R133), the divide
factor (spec/40_calculator.md R80), the pin-valid bits (spec/41_lifecycle.md R98), and the response word
(spec/30_encoding.md R60, spec/20_memory.md R41). The fields themselves are taken from the command word in
Decode.lean (R58: none is extended, scaled or shifted). -/

namespace Sys2Proof.Machine

/-- A duty value fits the compare register: v < 2^W (R133). -/
def dutyFits (w : Width) (v : Word) : Bool := decide (v.toNat < 2 ^ w.bits)

/-- The divide factor is "1 or >1" (R80). -/
def divLegal (div : Byte) : Bool := div != 0

/-- `pv[c]`: bit (15 + c) of the word, bit c - 1 of the PV field (R58). -/
def pinValid (pv : BitVec 4) (c : Channel) : Bool := pv.getLsbD (c.number - 1)

/-- The registry vouches for all four pins (R98: "if PV is not 0b1111"). -/
def pinsValid (pv : BitVec 4) : Bool :=
  pinValid pv .ch1 && pinValid pv .ch2 && pinValid pv .ch3 && pinValid pv .ch4

/-- The status codes of R170. -/
def Status.code : Status → BitVec 4
  | .ok => 0
  | .wouldBlock => 1
  | .errFreqRange => 2
  | .errNotOwned => 3
  | .errAlreadyOwned => 4
  | .errWrongMode => 5
  | .errIllegalEncoding => 6
  | .errOperand => 7
  | .errPin => 8

/-- The response word (R60): VALUE, 24 zero bits, CAUSE, STATUS. -/
def Response.word (x : Response) : ResponseWord := x.value ++ 0#24 ++ x.cause ++ x.status.code

/-- The eight bytes of a response word over a byte-wide path: bits [31:0] first, little-endian (R41). -/
def Response.bytes (x : Response) : List Byte := (List.range 8).map fun k => x.word.extractLsb' (8 * k) 8

/-- A failure, for a safety claim (R173: "counts codes 2 to 8 as failures and codes 0 and 1 as normal"). -/
def Status.isFailure (x : Status) : Bool := decide (2 ≤ x.code.toNat)

end Sys2Proof.Machine
end

