-- ==== Sys2Proof/Machine/Ops.lean ====
section
/-! DEFINITION. The named operations every command is made of: the register block (spec/20_memory.md R40 to R45),
the output trace (spec/10_state.md R33), the response and `raise` (spec/60_exceptions.md R171), admission (R176),
the two resets (spec/70_reset_and_hazards.md R200, R201), and the sub-procedures BUS_SEQ, START_SEQ and
ENABLE_STEP (spec/41_lifecycle.md R100, R101; spec/43_pwm_ops.md R130). -/

namespace Sys2Proof.Machine

/-- The registers of channel c. -/
def State.chan (s : State) : Channel → Chan
  | .ch1 => s.ch1
  | .ch2 => s.ch2
  | .ch3 => s.ch3
  | .ch4 => s.ch4

/-- Channel c gets these registers; no other channel changes. -/
def State.setChan (s : State) (c : Channel) (x : Chan) : State :=
  match c with
  | .ch1 => { s with ch1 := x }
  | .ch2 => { s with ch2 := x }
  | .ch3 => { s with ch3 := x }
  | .ch4 => { s with ch4 := x }

/-! ### The register block -/

/-- A one-bit register as a word: bit 0, the reserved bits 0 (R25). -/
def flagWord (b : Bool) : Word := if b then 1 else 0

/-- The W low bits of a word (R43: the meaningful width of CNT, ARR and CCR is W). -/
def truncW (w : Width) (v : Word) : Word :=
  match w with
  | .w16 => v &&& 0xFFFF
  | .w32 => v

/-- One channel's byte of a channel-mode register: OCM at bits 6..4, OCPE at bit 3 (R25). -/
def modeByte (x : Chan) : Byte := 0#1 ++ x.ocm ++ BitVec.ofBool x.ocpe ++ 0#3

/-- A channel-mode register of two channels (R25), the reserved bits 0. -/
def modeWord (low high : Chan) : Word := 0#16 ++ modeByte high ++ modeByte low

/-- The channel with the mode fields of its byte (R25). -/
def Chan.withModeByte (x : Chan) (b : Byte) : Chan :=
  { x with ocm := b.extractLsb' 4 3, ocpe := b.getLsbD 3 }

/-- `MemRead(idx, 32)` (R40): the register's word with its reserved bits 0. -/
def memRead (r : RegIdx) (s : State) : Word :=
  match r with
  | .cr => flagWord s.cen
  | .ier => flagWord s.uie
  | .sr => flagWord s.uif
  | .ccmr1 => modeWord s.ch1 s.ch2
  | .ccmr2 => modeWord s.ch3 s.ch4
  | .cnt => s.cnt
  | .psc => s.psc.setWidth 32
  | .arr => s.arr
  | .ccr c => (s.chan c).ccr

/-- `MemWrite(idx, 32, v)` (R40): "stores the defined bits of v and drops the rest". -/
def memWrite (r : RegIdx) (v : Word) (s : State) : State :=
  match r with
  | .cr => { s with cen := v.getLsbD 0 }
  | .ier => { s with uie := v.getLsbD 0 }
  | .sr => { s with uif := v.getLsbD 0 }
  | .ccmr1 =>
    { s with ch1 := s.ch1.withModeByte (v.extractLsb' 0 8), ch2 := s.ch2.withModeByte (v.extractLsb' 8 8) }
  | .ccmr2 =>
    { s with ch3 := s.ch3.withModeByte (v.extractLsb' 0 8), ch4 := s.ch4.withModeByte (v.extractLsb' 8 8) }
  | .cnt => { s with cnt := truncW s.cfg.width v }
  | .psc => { s with psc := v.setWidth 16 }
  | .arr => { s with arr := truncW s.cfg.width v }
  | .ccr c => s.setChan c { s.chan c with ccr := truncW s.cfg.width v }

/-- `emit EVT` (R5, R33): the event goes to the end of the output trace. -/
def emit (e : OutEvent) (s : State) : State := { s with trace := s.trace ++ [e] }

/-- One register write a rule lists: the write, then its REGW event (R33 kind 4). -/
def writeReg (r : RegIdx) (v : Word) (s : State) : State := emit (.regw r v) (memWrite r v s)

/-! ### Responses -/

/-- The response goes to the host (R55, R60). -/
def answer (x : Response) (s : State) : State := { s with responses := s.responses ++ [x] }

/-- `respond(OK, v)` (R5). -/
def respondOk (v : Word) (s : State) : Result := .next (answer (.okay v) s)

/-- `raise st(cause)` (R171): "precise and total", no state of the block changes. The one shared form of every
refusal; the host may go on after it (R179, R180: there is no trap entry and no return). -/
def raise (st : Status) (cause : BitVec 4) (s : State) : Result := .next (answer (.refusal st cause) s)

/-- `admit(modes)` (R176): ERR_NOT_OWNED while Unowned, ERR_WRONG_MODE in a mode not listed. -/
def admitIn (modes : List Owner) (s : State) (k : Result) : Result :=
  if s.owner = .unowned then raise .errNotOwned 0 s
  else if s.owner ∈ modes then k
  else raise .errWrongMode 0 s

/-! ### Resets -/

/-- PERIPH_RESET (R201, R34): the register block and CCRA take their reset values, nothing else changes. -/
def periphReset (s : State) : State :=
  { s with
    cen := false, uie := false, uif := false, cnt := 0, psc := resetPsc, arr := resetArr s.cfg.width
    ch1 := .reset, ch2 := .reset, ch3 := .reset, ch4 := .reset }

/-- The block reset RST (R200): all state of the block. The parameters, the host's bytes on the port and the
schedule are not the block's and stay (log 11). It emits no event. -/
def blockReset (s : State) : State := { State.resetOf s.cfg with port := s.port, sched := s.sched }

/-! ### Sub-procedures -/

/-- BUS_SEQ (R100): enable, assert reset, the peripheral reset, clear reset. -/
def busSeq (s : State) : State :=
  emit .busResetClear (periphReset (emit .busResetAssert (emit .busEnable s)))

/-- PSC, then ARR (R101, R111: "writing `prescaler` then `auto_reload`"). -/
def reprogram (psc arr : BitVec 16) (s : State) : State :=
  writeReg .arr (arr.setWidth 32) (writeReg .psc (psc.setWidth 32) s)

/-- FREQ <- f (R15). -/
def recordFreq (f : Word) (s : State) : State := { s with freq := f }

/-- START_SEQ(psc, arr, f) (R101): "stop, reprogram, reset, go". -/
def startSeq (psc arr : BitVec 16) (f : Word) (s : State) : State :=
  recordFreq f
    (writeReg .cr (flagWord true)
      (writeReg .cnt 0
        (reprogram psc arr
          (writeReg .cr (flagWord false) s))))

/-- The channel-mode register of channel c (R25). -/
def ccmrOf : Channel → RegIdx
  | .ch1 => .ccmr1
  | .ch2 => .ccmr1
  | .ch3 => .ccmr2
  | .ch4 => .ccmr2

/-- Where channel c's byte starts in its channel-mode register (R25). -/
def fieldShift : Channel → Nat
  | .ch1 => 0
  | .ch2 => 8
  | .ch3 => 0
  | .ch4 => 8

/-- The register word with OCM[c] replaced, all other bits written back unchanged (R44). -/
def withMode (c : Channel) (m : BitVec 3) (v : Word) : Word :=
  (v &&& ~~~(0x70#32 <<< fieldShift c)) ||| (m.setWidth 32 <<< (4 + fieldShift c))

/-- The register word with OCPE[c] replaced, all other bits written back unchanged (R44). -/
def withPreload (c : Channel) (b : Bool) (v : Word) : Word :=
  (v &&& ~~~(0x08#32 <<< fieldShift c)) ||| (flagWord b <<< (3 + fieldShift c))

/-- The code of PWM mode 1 (R23). -/
def pwmMode1 : BitVec 3 := 6

/-- ENABLE_STEP(c) (R130): OCM[c] <- 6 and OCPE[c] <- 1 in one access. -/
def enableStep (c : Channel) (s : State) : State :=
  writeReg (ccmrOf c) (withPreload c true (withMode c pwmMode1 (memRead (ccmrOf c) s))) s

/-- CCRA[c] <- CCR[c] (R131, R155). -/
def activate (c : Channel) (s : State) : State := s.setChan c { s.chan c with ccra := (s.chan c).ccr }

/-- OWNER, SNAP_CLK and SNAP_DIV at construction (R97, R99). -/
def acquire (o : Owner) (clk : Word) (div : Byte) (s : State) : State :=
  { s with owner := o, snapClk := clk, snapDiv := div }

end Sys2Proof.Machine
end

