-- ==== Sys2Proof/Machine/Calculator.lean ====
section
/-! DEFINITION. The Timing Calculator (spec/40_calculator.md R80 to R92) and its command COMPUTE. All arithmetic is
over the naturals; nothing wraps (R87). -/

namespace Sys2Proof.Machine

/-- The five refusals of `compute_timing` (R80). -/
inductive TimingError where
  /-- div = 0 (R80). -/
  | operand
  /-- f = 0 (R83 a), cause 1. -/
  | zeroFrequency
  /-- total < 1 (R83 b), cause 2. -/
  | aboveClock
  /-- the prescaler exceeds 65535 (R84), cause 3. -/
  | prescaler
  /-- the auto-reload exceeds 65535 (R85), cause 4. -/
  | autoReload
  deriving DecidableEq, Repr

/-- The status a refusal is reported with (R80, R172). -/
def TimingError.status : TimingError → Status
  | .operand => .errOperand
  | .zeroFrequency => .errFreqRange
  | .aboveClock => .errFreqRange
  | .prescaler => .errFreqRange
  | .autoReload => .errFreqRange

/-- The CAUSE a refusal is reported with (R172). -/
def TimingError.cause : TimingError → BitVec 4
  | .operand => 0
  | .zeroFrequency => 1
  | .aboveClock => 2
  | .prescaler => 3
  | .autoReload => 4

/-- What `compute_timing` returns (R80). -/
inductive Timing where
  | pair (psc arr : BitVec 16)
  | refused (e : TimingError)
  deriving DecidableEq, Repr

/-- The timer input clock (R81): the bus clock, doubled when the divide factor is not 1. -/
def timerClock (clk : Word) (div : Byte) : Nat := clk.toNat * (if div = 1 then 1 else 2)

/-- The pair for a total tick count of at least 1 (R84, R85). -/
def timingOfTotal (total : Nat) : Timing :=
  let psc := (total - 1) / 65536
  if 65535 < psc then .refused .prescaler
  else
    let arr := total / (psc + 1)
    if 65535 < arr then .refused .autoReload
    else .pair (BitVec.ofNat 16 psc) (BitVec.ofNat 16 arr)

/-- `compute_timing(f, clk, div)` (R86), the checks in its order. -/
def computeTiming (f clk : Word) (div : Byte) : Timing :=
  if divLegal div then
    if f = 0 then .refused .zeroFrequency
    else
      let total := timerClock clk div / f.toNat
      if total < 1 then .refused .aboveClock
      else timingOfTotal total
  else .refused .operand

/-- A command that needs the pair: it raises the calculator's refusal or goes on with the pair (R86). -/
def withTiming (f clk : Word) (div : Byte) (s : State) (k : BitVec 16 → BitVec 16 → Result) : Result :=
  match computeTiming f clk div with
  | .pair psc arr => k psc arr
  | .refused e => raise e.status e.cause s

/-- The live change shared by SET_FREQ and SET_PERIOD (R111, R135): PSC, then ARR, then FREQ. -/
def changePeriod (f : Word) (s : State) : Result :=
  withTiming f s.snapClk s.snapDiv s fun psc arr => respondOk 0 (recordFreq f (reprogram psc arr s))

/-- COMPUTE (R90): VALUE = arr ++ psc; no state is read or written. -/
def execCompute (f clk : Word) (div : Byte) (s : State) : Result :=
  withTiming f clk div s fun psc arr => respondOk (arr ++ psc) s

end Sys2Proof.Machine
end

