-- ==== Sys2Proof/Machine/Lifecycle.lean ====
section
/-! DEFINITION. Acquisition and release (spec/41_lifecycle.md): NEW_TIMER, NEW_PWM, FREE. -/

namespace Sys2Proof.Machine

/-- The ownership check of both constructors (R96 step 1). -/
def onlyUnowned (s : State) (k : Result) : Result :=
  if s.owner = .unowned then k else raise .errAlreadyOwned 0 s

/-- NEW_TIMER (R97). -/
def execNewTimer (f clk : Word) (div : Byte) (s : State) : Result :=
  onlyUnowned s <|
    withTiming f clk div s fun psc arr =>
      respondOk 0 (startSeq psc arr f (busSeq (acquire .timer clk div s)))

/-- The four ENABLE_STEPs of NEW_PWM, channels 1, 2, 3, 4 in this order, each exactly once (R99). -/
def enableAll (s : State) : State :=
  enableStep .ch4 (enableStep .ch3 (enableStep .ch2 (enableStep .ch1 s)))

/-- NEW_PWM (R99), its checks in the order of R96 and R177. -/
def execNewPwm (f clk : Word) (div : Byte) (pv : BitVec 4) (s : State) : Result :=
  onlyUnowned s <|
    if divLegal div then
      if pinsValid pv then
        withTiming f clk div s fun psc arr =>
          respondOk 0 (startSeq psc arr f (enableAll (busSeq (acquire .pwm clk div s))))
      else raise .errPin 0 s
    else raise .errOperand 0 s

/-- FREE (R102): CEN <- 0, OWNER <- Unowned, nothing else (R103). -/
def execFree (s : State) : Result :=
  admitIn [.timer, .pwm] s <|
    respondOk 0 { writeReg .cr (flagWord false) s with owner := .unowned }

end Sys2Proof.Machine
end

