-- ==== Sys2Proof/Machine/Pwm.lean ====
section
/-! DEFINITION. The PWM Controller commands (spec/43_pwm_ops.md): ENABLE, DISABLE, GET_DUTY, SET_DUTY, GET_MAX_DUTY,
SET_PERIOD, GET_PERIOD. -/

namespace Sys2Proof.Machine

/-- ENABLE c (R130). -/
def execEnable (c : Channel) (s : State) : Result := admitIn [.pwm] s (respondOk 0 (enableStep c s))

/-- The register access of DISABLE c (R131): OCPE[c] <- 0, OCM[c] left as configured. -/
def disableStep (c : Channel) (s : State) : State :=
  writeReg (ccmrOf c) (withPreload c false (memRead (ccmrOf c) s)) s

/-- DISABLE c (R131): preload off, and the written duty takes effect at once. -/
def execDisable (c : Channel) (s : State) : Result :=
  admitIn [.pwm] s (respondOk 0 (activate c (disableStep c s)))

/-- GET_DUTY c (R132): the value last written, not the one in effect. -/
def execGetDuty (c : Channel) (s : State) : Result := admitIn [.pwm] s (respondOk (memRead (.ccr c) s) s)

/-- The write of SET_DUTY c (R133, R45): CCR[c], and CCRA[c] at once while OCPE[c] = 0. -/
def writeDuty (c : Channel) (v : Word) (s : State) : State :=
  if (s.chan c).ocpe then writeReg (.ccr c) v s else activate c (writeReg (.ccr c) v s)

/-- SET_DUTY c, v (R133): a value that does not fit W bits is refused. -/
def execSetDuty (c : Channel) (v : Word) (s : State) : Result :=
  admitIn [.pwm] s <|
    if dutyFits s.cfg.width v then respondOk 0 (writeDuty c v s) else raise .errOperand 0 s

/-- GET_MAX_DUTY (R134). -/
def execGetMaxDuty (s : State) : Result := admitIn [.pwm] s (respondOk (memRead .arr s) s)

/-- SET_PERIOD (R135): live, like SET_FREQ. -/
def execSetPeriod (f : Word) (s : State) : Result := admitIn [.pwm] s (changePeriod f s)

/-- GET_PERIOD (R139): the stored target frequency. -/
def execGetPeriod (s : State) : Result := admitIn [.pwm] s (respondOk s.freq s)

end Sys2Proof.Machine
end

