-- ==== Sys2Proof/Machine/Timer.lean ====
section
/-! DEFINITION. The Periodic Timer commands (spec/42_timer_ops.md): START, SET_FREQ, PAUSE, RESUME, RESET_COUNTER,
COUNTER, WAIT, CLEAR_UIF, LISTEN, UNLISTEN. -/

namespace Sys2Proof.Machine

/-- START (R110). -/
def execStart (f : Word) (s : State) : Result :=
  admitIn [.timer] s <|
    withTiming f s.snapClk s.snapDiv s fun psc arr => respondOk 0 (startSeq psc arr f s)

/-- SET_FREQ (R111): live, the counter is neither stopped nor reset. -/
def execSetFreq (f : Word) (s : State) : Result := admitIn [.timer] s (changePeriod f s)

/-- PAUSE (R112). -/
def execPause (s : State) : Result := admitIn [.timer] s (respondOk 0 (writeReg .cr (flagWord false) s))

/-- RESUME (R113). -/
def execResume (s : State) : Result := admitIn [.timer] s (respondOk 0 (writeReg .cr (flagWord true) s))

/-- RESET_COUNTER (R114): no update event, CCRA is not reloaded. -/
def execResetCounter (s : State) : Result := admitIn [.timer] s (respondOk 0 (writeReg .cnt 0 s))

/-- COUNTER (R115). -/
def execCounter (s : State) : Result := admitIn [.timer] s (respondOk (memRead .cnt s) s)

/-- WAIT (R116): test and clear UIF in one step; WOULD_BLOCK changes nothing. -/
def execWait (s : State) : Result :=
  admitIn [.timer] s <|
    if s.uif then respondOk 0 (writeReg .sr (flagWord false) s) else raise .wouldBlock 0 s

/-- CLEAR_UIF (R117). -/
def execClearUif (s : State) : Result := admitIn [.timer] s (respondOk 0 (writeReg .sr (flagWord false) s))

/-- LISTEN (R118): arms the one event. -/
def execListen (ev : Event) (s : State) : Result :=
  match ev with
  | .update => admitIn [.timer, .pwm] s (respondOk 0 (writeReg .ier (flagWord true) s))

/-- UNLISTEN (R119): disarms the one event. -/
def execUnlisten (ev : Event) (s : State) : Result :=
  match ev with
  | .update => admitIn [.timer, .pwm] s (respondOk 0 (writeReg .ier (flagWord false) s))

end Sys2Proof.Machine
end

