-- ==== Sys2Proof/Machine/Dispatch.lean ====
section
/-! DEFINITION. One arm per command (spec/30_encoding.md R62). -/

namespace Sys2Proof.Machine

def exec (i : Instr) (s : State) : Host.Outcome State Fault Refusal :=
  match i with
  | .compute f clk div => Sys2Proof.Machine.execCompute f clk div s
  | .newTimer f clk div => Sys2Proof.Machine.execNewTimer f clk div s
  | .newPwm f clk div pv => Sys2Proof.Machine.execNewPwm f clk div pv s
  | .free => Sys2Proof.Machine.execFree s
  | .start f => Sys2Proof.Machine.execStart f s
  | .setFreq f => Sys2Proof.Machine.execSetFreq f s
  | .pause => Sys2Proof.Machine.execPause s
  | .resume => Sys2Proof.Machine.execResume s
  | .resetCounter => Sys2Proof.Machine.execResetCounter s
  | .counter => Sys2Proof.Machine.execCounter s
  | .wait => Sys2Proof.Machine.execWait s
  | .clearUif => Sys2Proof.Machine.execClearUif s
  | .listen ev => Sys2Proof.Machine.execListen ev s
  | .unlisten ev => Sys2Proof.Machine.execUnlisten ev s
  | .enable c => Sys2Proof.Machine.execEnable c s
  | .disable c => Sys2Proof.Machine.execDisable c s
  | .getDuty c => Sys2Proof.Machine.execGetDuty c s
  | .setDuty c v => Sys2Proof.Machine.execSetDuty c v s
  | .getMaxDuty => Sys2Proof.Machine.execGetMaxDuty s
  | .setPeriod f => Sys2Proof.Machine.execSetPeriod f s
  | .getPeriod => Sys2Proof.Machine.execGetPeriod s

end Sys2Proof.Machine
end

