-- ==== Sys2Proof/Machine/HostTurn.lean ====
section
/-! DEFINITION. A turn of the HOST agent: the next command word on the port is taken, decoded and executed
(spec/20_memory.md R41, R42, R46, R51; spec/30_encoding.md R63, R66). -/

namespace Sys2Proof.Machine

/-- The agent that moves next: the head of the schedule; with an empty schedule the host (log 6). -/
def turn (s : State) : Agent := s.sched.headD .host

/-- That choice is used up. -/
def endTurn (s : State) : State := { s with sched := s.sched.tail }

/-- The bytes of the command just taken are gone from the port. -/
def consume (rest : List Byte) (s : State) : State := { s with port := rest }

/-- An illegal command is answered with ERR_ILLEGAL_ENCODING "and changes no state, whatever OWNER is" (R66). -/
def answerIllegal (s : State) : Result := raise .errIllegalEncoding 0 s

/-- One complete command word is executed (R51: "when its 96th bit has been presented"). -/
def execWord (w : CommandWord) (s : State) : Result :=
  match decodeWord w with
  | .command i => exec i s
  | .rejected _ => answerIllegal s

/-- The host's turn. While UNDEF = 1 the spec says nothing (R29), and the model stops by name (log 3). With fewer
than twelve bytes on the port the block waits (R42). -/
def hostTurn (s : State) : Result :=
  if s.undef then .fault .blockUndefined
  else
    match takeCommand s.port with
    | some (w, rest) => execWord w (consume rest s)
    | none => .next s

end Sys2Proof.Machine
end

