-- ==== Sys2Proof/Machine/Flags.lean ====
section
/-! DEFINITION. The one status flag UIF, the update event that sets it (spec/44_counter_tick.md R154, R155), and the
outputs that are functions of the state: IRQ (R158) and OUT[1..4] (R156). -/

namespace Sys2Proof.Machine

/-- The preload transfer of one channel (R155): if OCPE[c] = 1 then CCRA[c] <- CCR[c]. -/
def transfer (x : Chan) : Chan := if x.ocpe then { x with ccra := x.ccr } else x

/-- UPDATE_EVENT (R154, R155): UIF <- 1, then the transfer of every channel. -/
def updateEvent (s : State) : State :=
  { s with
    uif := true
    ch1 := transfer s.ch1, ch2 := transfer s.ch2, ch3 := transfer s.ch3, ch4 := transfer s.ch4 }

/-- The interrupt request line (R158): IRQ = UIE AND UIF, a level. -/
def irq (s : State) : Bool := s.uie && s.uif

/-- OUT[c] (R156): in PWM mode 1 high (`some true`) while CNT < CCRA[c], else low; in any other mode the block gives
no value (`none`; U4, log 10). -/
def out (c : Channel) (s : State) : Option Bool :=
  if (s.chan c).ocm = pwmMode1 then some (decide (s.cnt.toNat < (s.chan c).ccra.toNat)) else none

end Sys2Proof.Machine
end

