-- ==== Sys2Proof/Machine/Tick.lean ====
section
/-! DEFINITION. The TICK step, the second agent's move (spec/44_counter_tick.md R150 to R155). -/

namespace Sys2Proof.Machine

/-- TICK is enabled exactly when CEN = 1 and UNDEF = 0 (R150). -/
def tickEnabled (s : State) : Bool := s.cen && !s.undef

/-- CNT <- 0, then UPDATE_EVENT (R152). -/
def rollover (s : State) : State := updateEvent (memWrite .cnt 0 s)

/-- CNT <- CNT + 1 (R151). -/
def countUp (s : State) : State := memWrite .cnt (s.cnt + 1) s

/-- TICK when CNT >= ARR, by OVERRUN_POLICY (R153). -/
def tickOverrun (s : State) : State :=
  match s.cfg.overrun with
  | .fault => { s with undef := true }
  | .wrapNow => rollover s
  | .countToMax => if s.cnt.toNat = 2 ^ s.cfg.width.bits - 1 then rollover s else countUp s

/-- One counter tick of an enabled counter (R151, R152, R153). -/
def count (s : State) : State :=
  if s.cnt.toNat + 1 < s.arr.toNat then countUp s
  else if s.cnt.toNat + 1 = s.arr.toNat then rollover s
  else tickOverrun s

/-- A turn of the TICK agent: a tick if one is enabled; otherwise "the counter holds its value and no TICK step
exists" (R150), so nothing changes (log 9). -/
def tick (s : State) : State := if tickEnabled s then count s else s

end Sys2Proof.Machine
end

