-- ==== Sys2Proof/Machine/Step.lean ====
section
/-! DEFINITION. One step of the machine: one whole HOST command, one TICK step, or the block reset, whichever the
schedule says (spec/20_memory.md R46: "a single sequence of steps, each step one whole HOST command or one TICK
step"). -/

namespace Sys2Proof.Machine

/-- One step. -/
def step (s : State) : Host.Outcome State Fault Refusal :=
  match turn s with
  | .host => hostTurn (endTurn s)
  | .tick => .next (tick (endTurn s))
  | .rst => .next (blockReset (endTurn s))

/-- The command word `w` of `nbits` bits is the next one on the port, and the host moves next (log 7). -/
def State.withFetchWord (s : State) (nbits w : Nat) : State :=
  { s with port := commandBytes (tableWord nbits w) ++ s.port.drop 12, sched := .host :: s.sched }

end Sys2Proof.Machine
end

