-- ==== Sys2Proof/Safety.lean ====
section
/-! DEFINITION. What counts as a good state and a safe run of the timer core, in the terms claims use: the
invariants of spec/10_state.md R27, the overrun state (spec/44_counter_tick.md R153), interleavings of commands and
ticks (spec/20_memory.md R46), and a run without a failed command (spec/60_exceptions.md R173). -/

namespace Sys2Proof.Machine

/-- The overrun state (R153): CEN = 1 and CNT >= ARR. -/
def State.overrun (s : State) : Prop := s.cen = true ∧ s.arr.toNat ≤ s.cnt.toNat

/-- A word within the register width W (R43). -/
def FitsW (w : Width) (v : Word) : Prop := v.toNat < 2 ^ w.bits

/-- The invariants of R27, items 1 to 7, and the widths of R43. -/
structure State.Inv (s : State) : Prop where
  /-- item 1 -/
  unowned_stopped : s.owner = .unowned → s.cen = false
  /-- item 2 -/
  running_reload : s.cen = true → 1 ≤ s.arr.toNat ∧ s.arr.toNat ≤ 65535
  /-- item 3 -/
  mode_legal : ∀ c, (s.chan c).ocm = 0 ∨ (s.chan c).ocm = 6
  /-- item 4 -/
  disabled_active : ∀ c, (s.chan c).ocpe = false → (s.chan c).ccra = (s.chan c).ccr
  /-- item 5 -/
  enabled_mode : ∀ c, (s.chan c).ocpe = true → (s.chan c).ocm = 6
  /-- item 6 -/
  owned_reload : s.owner ≠ .unowned → 1 ≤ s.arr.toNat ∧ s.arr.toNat ≤ 65535
  /-- item 6 -/
  owned_snapshot : s.owner ≠ .unowned → s.snapDiv ≠ 0 ∧ s.freq ≠ 0
  /-- item 6 -/
  owned_timing : s.owner ≠ .unowned → computeTiming s.freq s.snapClk s.snapDiv = .pair s.psc (s.arr.setWidth 16)
  /-- item 7 -/
  timer_channels : s.owner = .timer → ∀ c, (s.chan c).ocm = 0 ∧ (s.chan c).ocpe = false ∧ (s.chan c).ccr = 0
  /-- item 7 -/
  pwm_channels : s.owner = .pwm → ∀ c, (s.chan c).ocm = 6
  /-- R43 -/
  cnt_fits : FitsW s.cfg.width s.cnt
  /-- R43 -/
  arr_fits : FitsW s.cfg.width s.arr
  /-- R43 -/
  chan_fits : ∀ c, FitsW s.cfg.width (s.chan c).ccr ∧ FitsW s.cfg.width (s.chan c).ccra

/-- One move of one agent (R46): a whole command or one TICK step. -/
inductive Move where
  | command (i : Instr)
  | tick
  deriving DecidableEq, Repr

/-- What a move does to the block. -/
def move (m : Move) (s : State) : Result :=
  match m with
  | .command i => exec i s
  | .tick => .next (tick s)

/-- A sequence of moves, in any interleaving of the two agents (R46). -/
def play : List Move → State → Result
  | [], s => .next s
  | m :: ms, s =>
    match move m s with
    | .next t => play ms t
    | .fault x => .fault x
    | .refused x => .refused x

/-- No command has failed so far (R173). -/
def State.noFailure (s : State) : Prop := ∀ x ∈ s.responses, x.status.isFailure = false

/-- A safe run of k steps: it ends in a next state in which nothing is undefined (R29: "a claim about a run takes
UNDEF = 0 at its end as a premise") and no command has failed. -/
def SafeRun (k : Nat) (s : State) : Prop :=
  ∃ t : State, Host.Core.run Sys2Proof.core k s = .next t ∧ t.undef = false ∧ t.noFailure

end Sys2Proof.Machine
end

