-- ==== Sys2Proof/Certificates/Slice0/Obligations.lean ====
section
/-! DEFINITION. The statements for the provers, from the numbered rules of spec/. The helpers under
`Sys2Proof.Claims` say the spec's formulas and tables in their own words, apart from the model's definitions. -/

namespace Sys2Proof.Claims

open Sys2Proof.Machine

/-! ### The spec's formulas -/

/-- The timer input clock (R81). -/
def inputClock (clk : Word) (div : Byte) : Nat := if div = 1 then clk.toNat else 2 * clk.toNat

/-- The total tick count (R82). -/
def totalCount (f clk : Word) (div : Byte) : Nat := inputClock clk div / f.toNat

/-- The true prescaler of a total (R84). -/
def prescalerOf (total : Nat) : Nat := (total - 1) / 65536

/-- The true auto-reload of a total (R85). -/
def reloadOf (total : Nat) : Nat := total / (prescalerOf total + 1)

/-- The operands the calculator accepts: R88 item 7, after the checks of R80 and R83. -/
def Accepted (f clk : Word) (div : Byte) : Prop :=
  div ≠ 0 ∧ f ≠ 0 ∧ 1 ≤ totalCount f clk div ∧ totalCount f clk div < 2 ^ 32 ∧ totalCount f clk div % 65536 ≠ 0

/-- The conditions of R172 for each CAUSE of ERR_FREQ_RANGE, once div = 0 is excluded. -/
def RangeCause (f clk : Word) (div : Byte) (cause : BitVec 4) : Prop :=
  div ≠ 0 ∧
    ((cause = 1 ∧ f = 0) ∨
     (cause = 2 ∧ f ≠ 0 ∧ totalCount f clk div < 1) ∨
     (cause = 3 ∧ f ≠ 0 ∧ 2 ^ 32 < totalCount f clk div) ∨
     (cause = 4 ∧ f ≠ 0 ∧ 1 ≤ totalCount f clk div ∧ totalCount f clk div ≤ 2 ^ 32 ∧
        totalCount f clk div % 65536 = 0))

/-- The calculator's answer for an owned block's snapshot is a pair or one of the four causes: ERR_OPERAND "cannot
occur: SNAP_DIV is never 0" (R110). -/
def SnapshotDecides (f : Word) (s : State) : Prop :=
  s.Inv → s.owner ≠ .unowned →
    Accepted f s.snapClk s.snapDiv ∨ ∃ cause, RangeCause f s.snapClk s.snapDiv cause

/-! ### What a command leaves -/

/-- `s` after a response OK with VALUE `v`, the REGW and BUSCTL events `evs` appended to the trace. -/
def done (v : Word) (evs : List OutEvent) (s : State) : State :=
  { s with trace := s.trace ++ evs, responses := s.responses ++ [.okay v] }

/-- `s` after a refusal: nothing changed but the response given (R171). -/
def refusedWith (st : Status) (cause : BitVec 4) (s : State) : State :=
  { s with responses := s.responses ++ [.refusal st cause] }

/-- A Timer-only command is refused in the other two lifecycle states (R176). -/
def TimerOnly (i : Instr) (s : State) : Prop :=
  (s.owner = .unowned → exec i s = .next (refusedWith .errNotOwned 0 s)) ∧
  (s.owner = .pwm → exec i s = .next (refusedWith .errWrongMode 0 s))

/-- A Pwm-only command is refused in the other two lifecycle states (R176). -/
def PwmOnly (i : Instr) (s : State) : Prop :=
  (s.owner = .unowned → exec i s = .next (refusedWith .errNotOwned 0 s)) ∧
  (s.owner = .timer → exec i s = .next (refusedWith .errWrongMode 0 s))

/-- The REGW events of "writing `prescaler` then `auto_reload`" (R111). -/
def reprogramEvents (total : Nat) : List OutEvent :=
  [.regw .psc (BitVec.ofNat 32 (prescalerOf total)), .regw .arr (BitVec.ofNat 32 (reloadOf total))]

/-- The five REGW events of START_SEQ (R101). -/
def startEvents (total : Nat) : List OutEvent :=
  [.regw .cr 0] ++ reprogramEvents total ++ [.regw .cnt 0, .regw .cr 1]

/-- The three BUSCTL events of BUS_SEQ (R100). -/
def busEvents : List OutEvent := [.busEnable, .busResetAssert, .busResetClear]

/-- PSC, ARR and FREQ after a frequency command (R101, R111, R135). -/
def retimed (f : Word) (total : Nat) (s : State) : State :=
  { s with
    psc := BitVec.ofNat 16 (prescalerOf total), arr := BitVec.ofNat 32 (reloadOf total), freq := f }

/-- The value of a channel-mode register from the bit positions of R25. -/
def modeValue (low high : Chan) : Nat :=
  8 * low.ocpe.toNat + 16 * low.ocm.toNat + 2048 * high.ocpe.toNat + 4096 * high.ocm.toNat

/-- The REGW event of the channel-mode register that holds channel c's fields (R25). -/
def modeEvent (c : Channel) (s : State) : OutEvent :=
  match c with
  | .ch1 => .regw .ccmr1 (BitVec.ofNat 32 (modeValue s.ch1 s.ch2))
  | .ch2 => .regw .ccmr1 (BitVec.ofNat 32 (modeValue s.ch1 s.ch2))
  | .ch3 => .regw .ccmr2 (BitVec.ofNat 32 (modeValue s.ch3 s.ch4))
  | .ch4 => .regw .ccmr2 (BitVec.ofNat 32 (modeValue s.ch3 s.ch4))

/-- A channel after the preload transfer of the update event (R155). -/
def reloaded (x : Chan) : Chan := { x with ccra := if x.ocpe then x.ccr else x.ccra }

/-- The state after CNT <- 0 and UPDATE_EVENT (R152, R154, R155). -/
def rolledOver (s : State) : State :=
  { s with
    cnt := 0, uif := true
    ch1 := reloaded s.ch1, ch2 := reloaded s.ch2, ch3 := reloaded s.ch3, ch4 := reloaded s.ch4 }

/-! ### The spec's tables -/

/-- The constructors. -/
def isConstructor : Instr → Bool
  | .newTimer _ _ _ => true
  | .newPwm _ _ _ _ => true
  | _ => false

/-- START, SET_FREQ and SET_PERIOD: the other commands that write FREQ, PSC and ARR (R30). -/
def isRetiming : Instr → Bool
  | .start _ => true
  | .setFreq _ => true
  | .setPeriod _ => true
  | _ => false

/-- SET_DUTY on channel c. -/
def isSetDuty (c : Channel) : Instr → Bool
  | .setDuty d _ => d == c
  | _ => false

/-- The status of the admission table (R176); none where the table says A. -/
def ownershipStatus (i : Instr) (o : Owner) : Option Status :=
  match i with
  | .compute _ _ _ => none
  | .newTimer _ _ _ | .newPwm _ _ _ _ => if o = .unowned then none else some .errAlreadyOwned
  | .free | .listen _ | .unlisten _ => if o = .unowned then some .errNotOwned else none
  | .start _ | .setFreq _ | .pause | .resume | .resetCounter | .counter | .wait | .clearUif =>
    match o with
    | .unowned => some .errNotOwned
    | .timer => none
    | .pwm => some .errWrongMode
  | .enable _ | .disable _ | .getDuty _ | .setDuty _ _ | .getMaxDuty | .setPeriod _ | .getPeriod =>
    match o with
    | .unowned => some .errNotOwned
    | .timer => some .errWrongMode
    | .pwm => none

/-- The "raised by" column of R170: the statuses a command may answer once it has decoded. -/
def mayAnswer (i : Instr) : List Status :=
  match i with
  | .compute _ _ _ => [.ok, .errOperand, .errFreqRange]
  | .newTimer _ _ _ => [.ok, .errAlreadyOwned, .errOperand, .errFreqRange]
  | .newPwm _ _ _ _ => [.ok, .errAlreadyOwned, .errOperand, .errPin, .errFreqRange]
  | .free | .listen _ | .unlisten _ => [.ok, .errNotOwned]
  | .wait => [.ok, .wouldBlock, .errNotOwned, .errWrongMode]
  | .start _ | .setFreq _ | .setPeriod _ => [.ok, .errNotOwned, .errWrongMode, .errFreqRange]
  | .setDuty _ _ => [.ok, .errNotOwned, .errWrongMode, .errOperand]
  | .pause | .resume | .resetCounter | .counter | .clearUif => [.ok, .errNotOwned, .errWrongMode]
  | .enable _ | .disable _ | .getDuty _ | .getMaxDuty | .getPeriod => [.ok, .errNotOwned, .errWrongMode]

/-- The defined bits of a register (R25). -/
def definedBits (w : Width) : RegIdx → Word
  | .cr | .ier | .sr => 0x1
  | .ccmr1 | .ccmr2 => 0x7878
  | .psc => 0xFFFF
  | .cnt | .arr | .ccr _ => BitVec.ofNat 32 (2 ^ w.bits - 1)

/-- The two states agree but in the registers R34 leaves unspecified. -/
def SameButUnspecified (s t : State) : Prop :=
  t = { s with psc := t.psc, arr := t.arr, snapClk := t.snapClk, snapDiv := t.snapDiv, freq := t.freq }

end Sys2Proof.Claims

open Sys2Proof Sys2Proof.Machine Sys2Proof.Claims

/-! ### Encoding, decoding, and the step -/

/-- R56, R57, R58, R62 and R41: the twelve bytes of a command's word, whatever follows them, are decoded to that
command, and exactly they are taken from the stream. -/
def Obligations.DecodeOfEncodedBytes : Prop :=
  ∀ (i : Instr) (rest : List Byte),
    decode (commandBytes (encode i) ++ rest) = .command i ∧
    takeCommand (commandBytes (encode i) ++ rest) = some (encode i, rest)

/-- R57, R63: a word that decodes is the word of the command it decodes to: no bit of it is dropped. -/
def Obligations.EncodeOfDecodedWord : Prop :=
  ∀ (w : CommandWord) (i : Instr), decodeWord w = .command i → encode i = w

/-- R63, against opcode_table.json: the decoder accepts exactly the words of the table, as the command of the row
that owns them; every other word is rejected by name. -/
def Obligations.DecoderAgreesWithOpcodeTable : Prop :=
  ∀ w : CommandWord,
    ((∃ i, decodeWord w = .command i) ↔ WellFormed w = true) ∧
    (∀ i, decodeWord w = .command i → ∃ r ∈ opcodeTable, r.owns w = true ∧ r.mnemonic = i.mnemonic) ∧
    (∀ r ∈ opcodeTable, r.owns w = true → eventLegal w = true →
      ∃ i, decodeWord w = .command i ∧ i.mnemonic = r.mnemonic)

/-- R66: an illegal command word is answered with ERR_ILLEGAL_ENCODING, CAUSE 0, VALUE 0, and changes no state,
whatever OWNER is; its twelve bytes are used up.
The port and the schedule are the model's (logs 6, 7). -/
def Obligations.IllegalWordAnsweredWithoutEffect : Prop :=
  ∀ (s : State) (w : CommandWord) (rest : List Byte),
    turn s = .host → s.undef = false → s.port = commandBytes w ++ rest → WellFormed w = false →
    step s = .next (refusedWith .errIllegalEncoding 0 { s with port := rest, sched := s.sched.tail })

/-- Words of R68 and of 95_test_vectors.md decode to the commands they stand for, and reserved ones are rejected. -/
def Obligations.SpecWordsDecode : Prop :=
  decodeWord 0x044AA200_00000032_00000201 = .command (.compute 50 72000000 2) ∧
  decodeWord 0x007A1200_000003E8_000F0103 = .command (.newPwm 1000 8000000 1 0b1111) ∧
  decodeWord 0x00000000_00000000_0000000B = .command .wait ∧
  decodeWord 0x00000000_00000000_0000000D = .command (.listen .update) ∧
  decodeWord 0x00000000_00000000_00000050 = .command (.enable .ch3) ∧
  decodeWord 0x00000000_00000FA0_00000013 = .command (.setDuty .ch1 4000) ∧
  decodeWord 0x00000000_00000000_00000000 = .rejected .reservedOpcode ∧
  decodeWord 0x00000000_00000000_0000008D = .rejected .reservedEvent ∧
  decodeWord 0x00000000_00000000_00100007 = .rejected .mustBeZero

/-- R46, R51: when the host moves and the bytes on the port decode to a command, the step is that command, with its
twelve bytes and the agent's turn used up.
The port and the schedule are the model's (logs 6, 7). -/
def Obligations.StepExecutesDecodedCommand : Prop :=
  ∀ (s : State) (w : CommandWord) (rest : List Byte) (i : Instr),
    turn s = .host → s.undef = false → s.port = commandBytes w ++ rest → decodeWord w = .command i →
    step s = exec i { s with port := rest, sched := s.sched.tail }

/-- R42: fewer than 96 bits are not a command; the block does nothing and keeps them.
The port and the schedule are the model's (logs 6, 7). -/
def Obligations.IncompleteWordWaits : Prop :=
  ∀ s : State, turn s = .host → s.undef = false → s.port.length < 12 →
    step s = .next { s with sched := s.sched.tail }

/-- R29 and log 3: a step stops exactly when the host moves while UNDEF = 1, and then by name; that a host move
stops there is the model's reading of "the spec says nothing about the block". -/
def Obligations.StepStopsOnlyWhileUndefined : Prop :=
  ∀ s : State,
    (turn s = .host → s.undef = true → step s = .fault .blockUndefined) ∧
    (¬(turn s = .host ∧ s.undef = true) → ∃ t, step s = .next t)

/-- R60 (with the codes of R170): STATUS in bits 3..0, CAUSE in 7..4, zeros in 31..8, VALUE in 63..32. -/
def Obligations.ResponseWordFields : Prop :=
  ∀ x : Response,
    (x.word.extractLsb' 0 4).toNat =
      (match x.status with
        | .ok => 0 | .wouldBlock => 1 | .errFreqRange => 2 | .errNotOwned => 3 | .errAlreadyOwned => 4
        | .errWrongMode => 5 | .errIllegalEncoding => 6 | .errOperand => 7 | .errPin => 8) ∧
    x.word.extractLsb' 4 4 = x.cause ∧ x.word.extractLsb' 8 24 = 0 ∧ x.word.extractLsb' 32 32 = x.value

/-! ### The Timing Calculator -/

/-- R86: the function, its checks in their order and its two formulas. -/
def Obligations.ComputeTimingFollowsItsChecks : Prop :=
  ∀ (f clk : Word) (div : Byte),
    (div = 0 → computeTiming f clk div = .refused .operand) ∧
    (div ≠ 0 → f = 0 → computeTiming f clk div = .refused .zeroFrequency) ∧
    (div ≠ 0 → f ≠ 0 →
      (totalCount f clk div < 1 → computeTiming f clk div = .refused .aboveClock) ∧
      (1 ≤ totalCount f clk div → 65535 < prescalerOf (totalCount f clk div) →
        computeTiming f clk div = .refused .prescaler) ∧
      (1 ≤ totalCount f clk div → prescalerOf (totalCount f clk div) ≤ 65535 →
        65535 < reloadOf (totalCount f clk div) → computeTiming f clk div = .refused .autoReload) ∧
      (1 ≤ totalCount f clk div → prescalerOf (totalCount f clk div) ≤ 65535 →
        reloadOf (totalCount f clk div) ≤ 65535 →
        computeTiming f clk div =
          .pair (BitVec.ofNat 16 (prescalerOf (totalCount f clk div)))
            (BitVec.ofNat 16 (reloadOf (totalCount f clk div)))))

/-- R88 items 1, 2, 4, 5 and 6 (the spec's own derivation): the bounds of every returned pair, the minimality of the
prescaler, and how close the period comes to the total. -/
def Obligations.CalculatorPairBounds : Prop :=
  ∀ (f clk : Word) (div : Byte) (psc arr : BitVec 16), computeTiming f clk div = .pair psc arr →
    (psc.toNat ≤ 65535 ∧ 1 ≤ arr.toNat ∧ arr.toNat ≤ 65535) ∧
    (totalCount f clk div ≤ (psc.toNat + 1) * 65536 ∧
      ∀ p : Nat, totalCount f clk div ≤ (p + 1) * 65536 → psc.toNat ≤ p) ∧
    ((psc.toNat + 1) * arr.toNat ≤ totalCount f clk div ∧
      totalCount f clk div ≤ (psc.toNat + 1) * arr.toNat + psc.toNat) ∧
    (1 ≤ psc.toNat → 32768 ≤ arr.toNat) ∧
    (totalCount f clk div ≤ 65535 → psc.toNat = 0 ∧ arr.toNat = totalCount f clk div)

/-- R88 items 3 and 7 (the spec's own derivation): an auto-reload of 65536 arises exactly at the positive multiples of
65536, and the accepted totals are exactly the others below 2^32. -/
def Obligations.CalculatorAcceptedTotals : Prop :=
  (∀ total : Nat, 1 ≤ total →
    (reloadOf total = 65536 ↔ total % 65536 = 0) ∧ (total % 65536 ≠ 0 → reloadOf total ≤ 65535)) ∧
  (∀ (f clk : Word) (div : Byte), (∃ psc arr, computeTiming f clk div = .pair psc arr) ↔ Accepted f clk div)

/-- R89 by R88 item 4: the achieved frequency tclk / ((psc + 1) * arr) is never below the requested one. -/
def Obligations.AchievedFrequencyNotBelowRequested : Prop :=
  ∀ (f clk : Word) (div : Byte) (psc arr : BitVec 16), computeTiming f clk div = .pair psc arr →
    f.toNat * ((psc.toNat + 1) * arr.toNat) ≤ inputClock clk div

/-- R90: COMPUTE answers the pair as arr ++ psc, or the calculator's refusal, in every lifecycle state, and changes
nothing. -/
def Obligations.ComputeAnswersThePair : Prop :=
  ∀ (f clk : Word) (div : Byte) (s : State),
    (Accepted f clk div →
      exec (.compute f clk div) s =
        .next (done
          (BitVec.ofNat 32 (reloadOf (totalCount f clk div) * 65536 + prescalerOf (totalCount f clk div))) [] s)) ∧
    (div = 0 → exec (.compute f clk div) s = .next (refusedWith .errOperand 0 s)) ∧
    (∀ k, RangeCause f clk div k → exec (.compute f clk div) s = .next (refusedWith .errFreqRange k s))

/-! ### Acquisition and release -/

/-- R97: NEW_TIMER, with its refusals in the order of R96. -/
def Obligations.NewTimerConstructs : Prop :=
  ∀ (f clk : Word) (div : Byte) (s : State),
    (s.owner = .unowned → Accepted f clk div →
      exec (.newTimer f clk div) s =
        .next (done 0 (busEvents ++ startEvents (totalCount f clk div))
          { retimed f (totalCount f clk div) s with
            owner := .timer, snapClk := clk, snapDiv := div
            cen := true, uie := false, uif := false, cnt := 0
            ch1 := ⟨0, 0, 0, false⟩, ch2 := ⟨0, 0, 0, false⟩, ch3 := ⟨0, 0, 0, false⟩, ch4 := ⟨0, 0, 0, false⟩ })) ∧
    (s.owner ≠ .unowned → exec (.newTimer f clk div) s = .next (refusedWith .errAlreadyOwned 0 s)) ∧
    (s.owner = .unowned → div = 0 → exec (.newTimer f clk div) s = .next (refusedWith .errOperand 0 s)) ∧
    (s.owner = .unowned → ∀ k, RangeCause f clk div k →
      exec (.newTimer f clk div) s = .next (refusedWith .errFreqRange k s))

/-- R99: NEW_PWM, every channel enabled exactly once, with its refusals in the order of R96. -/
def Obligations.NewPwmConstructs : Prop :=
  ∀ (f clk : Word) (div : Byte) (pv : BitVec 4) (s : State),
    (s.owner = .unowned → Accepted f clk div → pv = 0b1111 →
      exec (.newPwm f clk div pv) s =
        .next (done 0
          (busEvents ++ [.regw .ccmr1 0x0068, .regw .ccmr1 0x6868, .regw .ccmr2 0x0068, .regw .ccmr2 0x6868] ++
            startEvents (totalCount f clk div))
          { retimed f (totalCount f clk div) s with
            owner := .pwm, snapClk := clk, snapDiv := div
            cen := true, uie := false, uif := false, cnt := 0
            ch1 := ⟨0, 0, 6, true⟩, ch2 := ⟨0, 0, 6, true⟩, ch3 := ⟨0, 0, 6, true⟩, ch4 := ⟨0, 0, 6, true⟩ })) ∧
    (s.owner ≠ .unowned → exec (.newPwm f clk div pv) s = .next (refusedWith .errAlreadyOwned 0 s)) ∧
    (s.owner = .unowned → div = 0 → exec (.newPwm f clk div pv) s = .next (refusedWith .errOperand 0 s)) ∧
    (s.owner = .unowned → div ≠ 0 → pv ≠ 0b1111 →
      exec (.newPwm f clk div pv) s = .next (refusedWith .errPin 0 s)) ∧
    (s.owner = .unowned → pv = 0b1111 → ∀ k, RangeCause f clk div k →
      exec (.newPwm f clk div pv) s = .next (refusedWith .errFreqRange k s))

/-- R102: FREE clears CEN and OWNER and nothing else. -/
def Obligations.FreeReleases : Prop :=
  ∀ s : State,
    (s.owner ≠ .unowned →
      exec .free s = .next (done 0 [.regw .cr 0] { s with cen := false, owner := .unowned })) ∧
    (s.owner = .unowned → exec .free s = .next (refusedWith .errNotOwned 0 s))

/-- R95: the lifecycle transitions, and no others by a command. -/
def Obligations.LifecycleTransitions : Prop :=
  (∀ (f clk : Word) (div : Byte) (s : State), s.owner = .unowned → Accepted f clk div →
    ∃ t, exec (.newTimer f clk div) s = .next t ∧ t.owner = .timer) ∧
  (∀ (f clk : Word) (div : Byte) (s : State), s.owner = .unowned → Accepted f clk div →
    ∃ t, exec (.newPwm f clk div 0b1111) s = .next t ∧ t.owner = .pwm) ∧
  (∀ s : State, s.owner ≠ .unowned → ∃ t, exec .free s = .next t ∧ t.owner = .unowned) ∧
  (∀ (i : Instr) (s t : State), exec i s = .next t → t.owner ≠ s.owner →
    (s.owner = .unowned ∧ t.owner = .timer ∧ ∃ f clk div, i = .newTimer f clk div ∧ Accepted f clk div) ∨
    (s.owner = .unowned ∧ t.owner = .pwm ∧ ∃ f clk div, i = .newPwm f clk div 0b1111 ∧ Accepted f clk div) ∨
    (s.owner ≠ .unowned ∧ t.owner = .unowned ∧ i = .free))

/-! ### Admission and refusals -/

/-- R176: a command the admission table does not admit answers the table's status and changes nothing; an admitted
one answers none of the three ownership statuses. -/
def Obligations.AdmissionTable : Prop :=
  ∀ (i : Instr) (s : State),
    (∀ st, ownershipStatus i s.owner = some st → exec i s = .next (refusedWith st 0 s)) ∧
    (ownershipStatus i s.owner = none →
      ∃ t x, exec i s = .next t ∧ t.responses = s.responses ++ [x] ∧
        x.status ≠ .errNotOwned ∧ x.status ≠ .errAlreadyOwned ∧ x.status ≠ .errWrongMode)

/-- R55: every command of every state completes and is answered with exactly one response. -/
def Obligations.EveryCommandIsAnsweredOnce : Prop :=
  ∀ (i : Instr) (s : State), ∃ t x, exec i s = .next t ∧ t.responses = s.responses ++ [x]

/-- R171: a command that does not answer OK has changed no state of the block, and its VALUE is 0. -/
def Obligations.RefusalsArePrecise : Prop :=
  ∀ (i : Instr) (s t : State) (x : Response),
    exec i s = .next t → t.responses = s.responses ++ [x] → x.status ≠ .ok →
    t = { s with responses := t.responses } ∧ x.value = 0

/-- R170, R60: in a state that keeps the invariants, a command answers only the statuses of the table's "raised by"
column; CAUSE is 1 to 4 with ERR_FREQ_RANGE and 0 otherwise. -/
def Obligations.StatusesByCommand : Prop :=
  ∀ (i : Instr) (s t : State) (x : Response),
    s.Inv → exec i s = .next t → t.responses = s.responses ++ [x] →
    x.status ∈ mayAnswer i ∧
    (x.status = .errFreqRange → 1 ≤ x.cause.toNat ∧ x.cause.toNat ≤ 4) ∧
    (x.status ≠ .errFreqRange → x.cause = 0)

/-! ### The Periodic Timer -/

/-- R110: START, "stop, reprogram, reset, go". -/
def Obligations.StartRestarts : Prop :=
  ∀ (f : Word) (s : State),
    (s.owner = .timer → Accepted f s.snapClk s.snapDiv →
      exec (.start f) s =
        .next (done 0 (startEvents (totalCount f s.snapClk s.snapDiv))
          { retimed f (totalCount f s.snapClk s.snapDiv) s with cen := true, cnt := 0 })) ∧
    (s.owner = .timer → ∀ k, RangeCause f s.snapClk s.snapDiv k →
      exec (.start f) s = .next (refusedWith .errFreqRange k s)) ∧
    SnapshotDecides f s ∧ TimerOnly (.start f) s

/-- R111: SET_FREQ, a live change that leaves CEN, CNT and UIF alone. -/
def Obligations.SetFreqReprogramsLive : Prop :=
  ∀ (f : Word) (s : State),
    (s.owner = .timer → Accepted f s.snapClk s.snapDiv →
      exec (.setFreq f) s =
        .next (done 0 (reprogramEvents (totalCount f s.snapClk s.snapDiv))
          (retimed f (totalCount f s.snapClk s.snapDiv) s))) ∧
    (s.owner = .timer → ∀ k, RangeCause f s.snapClk s.snapDiv k →
      exec (.setFreq f) s = .next (refusedWith .errFreqRange k s)) ∧
    SnapshotDecides f s ∧ TimerOnly (.setFreq f) s

/-- R112, R113: PAUSE and RESUME write CEN only. -/
def Obligations.PauseAndResumeWriteCen : Prop :=
  ∀ s : State,
    (s.owner = .timer → exec .pause s = .next (done 0 [.regw .cr 0] { s with cen := false })) ∧
    TimerOnly .pause s ∧
    (s.owner = .timer → exec .resume s = .next (done 0 [.regw .cr 1] { s with cen := true })) ∧
    TimerOnly .resume s

/-- R114: RESET_COUNTER writes CNT only; no update event, no reload of CCRA. -/
def Obligations.ResetCounterZeroesCnt : Prop :=
  ∀ s : State,
    (s.owner = .timer → exec .resetCounter s = .next (done 0 [.regw .cnt 0] { s with cnt := 0 })) ∧
    TimerOnly .resetCounter s

/-- R115: COUNTER returns the live count and changes nothing. -/
def Obligations.CounterReturnsCnt : Prop :=
  ∀ s : State,
    (s.owner = .timer → exec .counter s = .next (done s.cnt [] s)) ∧ TimerOnly .counter s

/-- R116: WAIT, an atomic test and clear; WOULD_BLOCK changes nothing. -/
def Obligations.WaitTestsAndClearsUif : Prop :=
  ∀ s : State,
    (s.owner = .timer → s.uif = true → exec .wait s = .next (done 0 [.regw .sr 0] { s with uif := false })) ∧
    (s.owner = .timer → s.uif = false → exec .wait s = .next (refusedWith .wouldBlock 0 s)) ∧
    TimerOnly .wait s

/-- R117: CLEAR_UIF clears UIF whether it was set or not. -/
def Obligations.ClearUifClears : Prop :=
  ∀ s : State,
    (s.owner = .timer → exec .clearUif s = .next (done 0 [.regw .sr 0] { s with uif := false })) ∧
    TimerOnly .clearUif s

/-- R118, R119: LISTEN and UNLISTEN write UIE only, in both modes. -/
def Obligations.ListenAndUnlistenWriteUie : Prop :=
  ∀ s : State,
    (s.owner ≠ .unowned → exec (.listen .update) s = .next (done 0 [.regw .ier 1] { s with uie := true })) ∧
    (s.owner ≠ .unowned → exec (.unlisten .update) s = .next (done 0 [.regw .ier 0] { s with uie := false })) ∧
    (s.owner = .unowned →
      exec (.listen .update) s = .next (refusedWith .errNotOwned 0 s) ∧
      exec (.unlisten .update) s = .next (refusedWith .errNotOwned 0 s))

/-! ### The PWM Controller -/

/-- R130: ENABLE sets PWM mode 1 and the preload bit of its channel in one access, no other channel's. -/
def Obligations.EnableSetsModeAndPreload : Prop :=
  ∀ (c : Channel) (s t : State),
    (t = s.setChan c { s.chan c with ocm := 6, ocpe := true } → s.owner = .pwm →
      exec (.enable c) s = .next (done 0 [modeEvent c t] t)) ∧
    PwmOnly (.enable c) s

/-- R131: DISABLE clears the preload bit of its channel, keeps its mode, and brings the written duty into effect. -/
def Obligations.DisableClearsPreload : Prop :=
  ∀ (c : Channel) (s t : State),
    (t = s.setChan c { s.chan c with ocpe := false, ccra := (s.chan c).ccr } → s.owner = .pwm →
      exec (.disable c) s = .next (done 0 [modeEvent c t] t)) ∧
    PwmOnly (.disable c) s

/-- R132: GET_DUTY returns CCR[c], not CCRA[c], and changes nothing. -/
def Obligations.GetDutyReturnsCcr : Prop :=
  ∀ (c : Channel) (s : State),
    (s.owner = .pwm → exec (.getDuty c) s = .next (done (s.chan c).ccr [] s)) ∧ PwmOnly (.getDuty c) s

/-- R133: SET_DUTY writes CCR[c], and CCRA[c] at once when the channel is Disabled; a value of 2^W or more is
refused. -/
def Obligations.SetDutyWritesCompare : Prop :=
  ∀ (c : Channel) (v : Word) (s : State),
    (s.owner = .pwm → v.toNat < 2 ^ s.cfg.width.bits → (s.chan c).ocpe = true →
      exec (.setDuty c v) s = .next (done 0 [.regw (.ccr c) v] (s.setChan c { s.chan c with ccr := v }))) ∧
    (s.owner = .pwm → v.toNat < 2 ^ s.cfg.width.bits → (s.chan c).ocpe = false →
      exec (.setDuty c v) s =
        .next (done 0 [.regw (.ccr c) v] (s.setChan c { s.chan c with ccr := v, ccra := v }))) ∧
    (s.owner = .pwm → 2 ^ s.cfg.width.bits ≤ v.toNat →
      exec (.setDuty c v) s = .next (refusedWith .errOperand 0 s)) ∧
    PwmOnly (.setDuty c v) s

/-- R134, R139: GET_MAX_DUTY returns ARR and GET_PERIOD returns FREQ; neither changes anything. -/
def Obligations.GetMaxDutyAndGetPeriodRead : Prop :=
  ∀ s : State,
    (s.owner = .pwm → exec .getMaxDuty s = .next (done s.arr [] s)) ∧ PwmOnly .getMaxDuty s ∧
    (s.owner = .pwm → exec .getPeriod s = .next (done s.freq [] s)) ∧ PwmOnly .getPeriod s

/-- R135: SET_PERIOD, a live change that touches no channel, neither CEN, CNT nor UIF. -/
def Obligations.SetPeriodReprogramsLive : Prop :=
  ∀ (f : Word) (s : State),
    (s.owner = .pwm → Accepted f s.snapClk s.snapDiv →
      exec (.setPeriod f) s =
        .next (done 0 (reprogramEvents (totalCount f s.snapClk s.snapDiv))
          (retimed f (totalCount f s.snapClk s.snapDiv) s))) ∧
    (s.owner = .pwm → ∀ k, RangeCause f s.snapClk s.snapDiv k →
      exec (.setPeriod f) s = .next (refusedWith .errFreqRange k s)) ∧
    SnapshotDecides f s ∧ PwmOnly (.setPeriod f) s

/-! ### The counter -/

/-- R151: an enabled tick below the boundary adds one to CNT and changes nothing else.
That the schedule names TICK is how the model lets a tick happen (log 6). -/
def Obligations.TickCountsUp : Prop :=
  ∀ (s : State) (rest : List Agent),
    s.sched = .tick :: rest → s.cen = true → s.undef = false → FitsW s.cfg.width s.arr →
    s.cnt.toNat + 1 < s.arr.toNat →
    step s = .next { s with sched := rest, cnt := s.cnt + 1 }

/-- R152, R154, R155: at the boundary CNT wraps to 0 instead of taking the value ARR, UIF is set, and every channel
with preload takes its written duty.
That the schedule names TICK is how the model lets a tick happen (log 6). -/
def Obligations.TickRollsOver : Prop :=
  ∀ (s : State) (rest : List Agent),
    s.sched = .tick :: rest → s.cen = true → s.undef = false → s.cnt.toNat + 1 = s.arr.toNat →
    step s = .next (rolledOver { s with sched := rest })

/-- R153: a tick in the overrun state, for each OVERRUN_POLICY.
That the schedule names TICK is how the model lets a tick happen (log 6). -/
def Obligations.TickInOverrunFollowsPolicy : Prop :=
  ∀ (s : State) (rest : List Agent),
    s.sched = .tick :: rest → s.undef = false → s.overrun → FitsW s.cfg.width s.cnt →
    (s.cfg.overrun = .fault → step s = .next { s with sched := rest, undef := true }) ∧
    (s.cfg.overrun = .wrapNow → step s = .next (rolledOver { s with sched := rest })) ∧
    (s.cfg.overrun = .countToMax → s.cnt.toNat = 2 ^ s.cfg.width.bits - 1 →
      step s = .next (rolledOver { s with sched := rest })) ∧
    (s.cfg.overrun = .countToMax → s.cnt.toNat ≠ 2 ^ s.cfg.width.bits - 1 →
      step s = .next { s with sched := rest, cnt := s.cnt + 1 })

/-- R150: with CEN = 0 or UNDEF = 1 no tick exists; a turn of the TICK agent then changes nothing (that it is used up
and not an error is the model's choice, log 9). -/
def Obligations.NoTickWhileStopped : Prop :=
  ∀ (s : State) (rest : List Agent),
    s.sched = .tick :: rest → s.cen = false ∨ s.undef = true → step s = .next { s with sched := rest }

/-- R160 (the spec's own derivation): from CNT below ARR the counter shows CNT + n after n ticks, and the update event
falls exactly ARR - CNT ticks on; from CNT = 0 that is ARR ticks.
Ticks in a row are ticks the schedule names (log 6). -/
def Obligations.RolloverAfterExactlyReloadTicks : Prop :=
  ∀ (s : State) (n : Nat) (rest : List Agent),
    s.sched = List.replicate n .tick ++ rest → s.cen = true → s.undef = false → FitsW s.cfg.width s.arr →
    s.cnt.toNat < s.arr.toNat →
    (s.cnt.toNat + n < s.arr.toNat →
      Host.Core.run Sys2Proof.core n s = .next { s with sched := rest, cnt := BitVec.ofNat 32 (s.cnt.toNat + n) }) ∧
    (s.cnt.toNat + n = s.arr.toNat →
      Host.Core.run Sys2Proof.core n s = .next (rolledOver { s with sched := rest }))

/-- R157 and R137 (the spec's own derivation): in the ARR ticks from CNT = 0, OUT[c] of a channel in PWM mode 1 is high
during the first min(CCRA[c], ARR) and low during the rest.
Ticks in a row are ticks the schedule names (log 6). -/
def Obligations.OutputHighForCompareTicks : Prop :=
  ∀ (s : State) (c : Channel) (n : Nat) (rest : List Agent),
    s.sched = List.replicate n .tick ++ rest → s.cen = true → s.undef = false → FitsW s.cfg.width s.arr →
    s.cnt = 0 → n < s.arr.toNat → (s.chan c).ocm = 6 →
    ∃ t : State, Host.Core.run Sys2Proof.core n s = .next t ∧
      out c t = some (decide (n < min (s.chan c).ccra.toNat s.arr.toNat))

/-! ### Who writes what -/

/-- R30 and R136 (the spec's own derivation): the frame of every command. A register changes only by the commands of
its column of the access table, a channel's registers only by commands on that channel; the parameters, UNDEF, the
port and the schedule by none. -/
def Obligations.AccessTableFrame : Prop :=
  ∀ (i : Instr) (s t : State), exec i s = .next t →
    (t.cfg = s.cfg ∧ t.undef = s.undef ∧ t.port = s.port ∧ t.sched = s.sched) ∧
    (isConstructor i = false → t.snapClk = s.snapClk ∧ t.snapDiv = s.snapDiv) ∧
    (isConstructor i = false → i ≠ .free → t.owner = s.owner) ∧
    (isConstructor i = false → isRetiming i = false → t.freq = s.freq ∧ t.psc = s.psc ∧ t.arr = s.arr) ∧
    (isConstructor i = false → i ≠ .free → i ≠ .pause → i ≠ .resume → (∀ f, i ≠ .start f) → t.cen = s.cen) ∧
    (isConstructor i = false → (∀ f, i ≠ .start f) → i ≠ .resetCounter → t.cnt = s.cnt) ∧
    (isConstructor i = false → (∀ e, i ≠ .listen e) → (∀ e, i ≠ .unlisten e) → t.uie = s.uie) ∧
    (isConstructor i = false → i ≠ .wait → i ≠ .clearUif → t.uif = s.uif) ∧
    (∀ c, isConstructor i = false →
      (isSetDuty c i = false → (t.chan c).ccr = (s.chan c).ccr) ∧
      (isSetDuty c i = false → i ≠ .disable c → (t.chan c).ccra = (s.chan c).ccra) ∧
      (i ≠ .enable c → (t.chan c).ocm = (s.chan c).ocm) ∧
      (i ≠ .enable c → i ≠ .disable c → (t.chan c).ocpe = (s.chan c).ocpe))

/-- R154, R159: no command sets UIF or raises the update event; only a tick does. -/
def Obligations.NoCommandRaisesTheUpdateEvent : Prop :=
  ∀ (i : Instr) (s t : State), exec i s = .next t → t.uif = true → s.uif = true

/-- R138 (the spec's own derivation): a duty answered OK is read back, whatever ticks and commands lie between, as long
as none of them is a SET_DUTY of the same channel or a constructor and the block is still owned as a PWM. R29: "a claim
about a run takes UNDEF = 0 at its end as a premise"; no command or tick clears UNDEF, so it was 0 all along. -/
def Obligations.DutyRoundTrip : Prop :=
  ∀ (c : Channel) (v : Word) (s t u : State) (ms : List Move),
    exec (.setDuty c v) s = .next t → t.responses = s.responses ++ [.okay 0] →
    (∀ i, .command i ∈ ms → isConstructor i = false ∧ isSetDuty c i = false) →
    play ms t = .next u → u.undef = false → u.owner = .pwm →
    exec (.getDuty c) u = .next (done v [] u)

/-- R91, R111, R135 (the source's idempotence): the same frequency given twice leaves the same PSC, ARR and FREQ. -/
def Obligations.FrequencyChangeIsIdempotent : Prop :=
  ∀ (f : Word) (s t u : State),
    (exec (.setFreq f) s = .next t → exec (.setFreq f) t = .next u →
      u.psc = t.psc ∧ u.arr = t.arr ∧ u.freq = t.freq) ∧
    (exec (.setPeriod f) s = .next t → exec (.setPeriod f) t = .next u →
      u.psc = t.psc ∧ u.arr = t.arr ∧ u.freq = t.freq)

/-- R33, R100: the output trace only grows, except by the block reset, and a step that asks the bus controller for
anything is a construction: all three calls, in their order, and the block is owned after it. -/
def Obligations.TraceOnlyGrows : Prop :=
  ∀ s t : State, step s = .next t → turn s ≠ .rst →
    ∃ evs, t.trace = s.trace ++ evs ∧
      ((.busEnable ∈ evs ∨ .busResetAssert ∈ evs ∨ .busResetClear ∈ evs) →
        s.owner = .unowned ∧ t.owner ≠ .unowned ∧ busEvents <+: evs)

/-! ### Invariants -/

/-- R27, R34: the invariants hold after the block reset, for every choice of the parameters. -/
def Obligations.ResetKeepsTheInvariants : Prop :=
  ∀ cfg : Config, (State.resetOf cfg).Inv

/-- R27 items 1 to 7 (the spec's own derivation): every step, of any agent, from any state that keeps the invariants
leads to a state that keeps them. -/
def Obligations.StepKeepsTheInvariants : Prop :=
  ∀ s t : State, s.Inv → step s = .next t → t.Inv

/-- R27 item 8 (the spec's own derivation): CNT stays below ARR under every command and tick, except that SET_FREQ and
SET_PERIOD may lower ARR to CNT or below. -/
def Obligations.CountStaysBelowReload : Prop :=
  (∀ (i : Instr) (s t : State), s.Inv → s.cnt.toNat < s.arr.toNat → exec i s = .next t →
    t.cnt.toNat < t.arr.toNat ∨
    ((∃ f, i = .setFreq f ∨ i = .setPeriod f) ∧ t.cnt = s.cnt ∧ t.arr.toNat ≤ s.cnt.toNat)) ∧
  (∀ (s t : State) (rest : List Agent), s.Inv → s.cnt.toNat < s.arr.toNat → s.sched = .tick :: rest →
    step s = .next t → t.cnt.toNat < t.arr.toNat) ∧
  (∀ (i : Instr) (s t : State), s.Inv → exec i s = .next t → (∃ f, i = .start f) ∨ isConstructor i = true →
    t.responses = s.responses ++ [.okay 0] → t.cnt.toNat < t.arr.toNat)

/-- R29: under the two policies other than Fault UNDEF is never set, so no run ever stops. -/
def Obligations.DefinedPoliciesNeverStop : Prop :=
  ∀ (k : Nat) (s : State), s.cfg.overrun ≠ .fault → s.undef = false →
    ∃ t : State, Host.Core.run Sys2Proof.core k s = .next t ∧ t.undef = false ∧ t.cfg = s.cfg

/-- R206 and program P4: PAUSE, SET_FREQ, RESET_COUNTER, RESUME never leaves the block in the overrun state, and
gives the registers START gives in one command. -/
def Obligations.SafePeriodChangeMatchesStart : Prop :=
  ∀ (f : Word) (s t u : State), s.owner = .timer → Accepted f s.snapClk s.snapDiv →
    play [.command .pause, .command (.setFreq f), .command .resetCounter, .command .resume] s = .next t →
    exec (.start f) s = .next u →
    ¬t.overrun ∧ t = { u with trace := t.trace, responses := t.responses }

/-! ### Reset -/

/-- R200: the block reset, from any state at any point. The spec gives no value to PSC, ARR, SNAP_CLK, SNAP_DIV and
FREQ there, and this statement says none.
That the schedule names RST, and that the port and the schedule stay, is the model's choice (logs 6, 11). -/
def Obligations.BlockResetValues : Prop :=
  ∀ (s : State) (rest : List Agent), s.sched = .rst :: rest →
    ∃ t, step s = .next t ∧ t.owner = .unowned ∧ t.cen = false ∧ t.uie = false ∧ t.uif = false ∧ t.cnt = 0 ∧
      t.undef = false ∧ t.trace = [] ∧
      (∀ c, (t.chan c).ccr = 0 ∧ (t.chan c).ccra = 0 ∧ (t.chan c).ocm = 0 ∧ (t.chan c).ocpe = false) ∧
      irq t = false ∧ ∀ c, out c t = none

/-- R201: the peripheral reset gives the register block and CCRA their reset values (none is said of PSC and ARR) and
leaves OWNER, the snapshot, FREQ, UNDEF and the trace alone. -/
def Obligations.PeripheralResetValues : Prop :=
  ∀ s : State,
    periphReset s =
      { s with
        cen := false, uie := false, uif := false, cnt := 0
        psc := (periphReset s).psc, arr := (periphReset s).arr
        ch1 := ⟨0, 0, 0, false⟩, ch2 := ⟨0, 0, 0, false⟩, ch3 := ⟨0, 0, 0, false⟩, ch4 := ⟨0, 0, 0, false⟩ }

/-- R34 and U6 ("provably unobservable"): from an unowned, stopped block, nothing a run shows depends on what PSC, ARR,
SNAP_CLK, SNAP_DIV and FREQ hold, so the values the model names for them (logs 4, 5) are seen by nobody. -/
def Obligations.UnspecifiedRegistersUnobservable : Prop :=
  ∀ (k : Nat) (s s' t : State), SameButUnspecified s s' → s.owner = .unowned → s.cen = false →
    Host.Core.run Sys2Proof.core k s = .next t →
    ∃ t' : State, Host.Core.run Sys2Proof.core k s' = .next t' ∧ t'.responses = t.responses ∧ t'.trace = t.trace ∧
      irq t' = irq t ∧ ∀ c, out c t' = out c t

/-! ### Outputs and the register block -/

/-- R156: OUT[c] in PWM mode 1 is high exactly while CNT < CCRA[c]; with OCM[c] = 0 it has no value. FREE, which
stops the counter, leaves every output at its level (R103, R211).
That "no value" is `none` is the model's choice (log 10). -/
def Obligations.OutputIsTheComparison : Prop :=
  (∀ (c : Channel) (s : State),
    ((s.chan c).ocm = 6 → (out c s = some true ↔ s.cnt.toNat < (s.chan c).ccra.toNat) ∧
      (out c s = some false ↔ (s.chan c).ccra.toNat ≤ s.cnt.toNat)) ∧
    ((s.chan c).ocm = 0 → out c s = none)) ∧
  (∀ s t : State, exec .free s = .next t → ∀ c, out c t = out c s)

/-- R158, R210: the IRQ line is UIE AND UIF; a command lowers it only by WAIT, CLEAR_UIF, UNLISTEN or a constructor,
and while the block is Unowned no command but a constructor can. -/
def Obligations.IrqFallsOnlyByAcknowledge : Prop :=
  (∀ s : State, irq s = true ↔ s.uie = true ∧ s.uif = true) ∧
  (∀ (i : Instr) (s t : State), exec i s = .next t → irq s = true → irq t = false →
    (i = .wait ∨ i = .clearUif ∨ i = .unlisten .update) ∧ s.owner ≠ .unowned ∨ isConstructor i = true)

/-- R40 with the defined bits of R25: a register reads back the defined bits of what was written and no other register
changes; within the register widths the reserved bits read 0. -/
def Obligations.RegisterReadAfterWrite : Prop :=
  (∀ (r : RegIdx) (v : Word) (s : State),
    memRead r (memWrite r v s) = v &&& definedBits s.cfg.width r ∧
    ∀ r', r' ≠ r → memRead r' (memWrite r v s) = memRead r' s) ∧
  (∀ (r : RegIdx) (s : State), s.Inv → memRead r s &&& definedBits s.cfg.width r = memRead r s)
end

