-- ==== Sys2Proof/Laws/Calculator.lean ====
section
/-! SUPPORT. What `compute_timing` returns, once (spec/40_calculator.md R86). -/

namespace Sys2Proof.Machine

@[simp] theorem divLegal_iff (div : Byte) : divLegal div = true ↔ div ≠ 0 := by simp [divLegal]

theorem timerClock_lt (clk : Word) (div : Byte) : timerClock clk div < 2 ^ 33 := by
  have h := clk.isLt
  unfold timerClock
  split <;> omega

/-- A pair comes out of a total only when both checks pass, and then it is the two formulas of R84 and R85. -/
theorem timingOfTotal_pair {total : Nat} {psc arr : BitVec 16} (h : timingOfTotal total = .pair psc arr) :
    psc.toNat = (total - 1) / 65536 ∧ arr.toNat = total / ((total - 1) / 65536 + 1) ∧
      (total - 1) / 65536 ≤ 65535 ∧ total / ((total - 1) / 65536 + 1) ≤ 65535 := by
  unfold timingOfTotal at h
  dsimp only at h
  split at h
  · cases h
  · split at h
    · cases h
    · obtain ⟨rfl, rfl⟩ := Timing.pair.inj h
      refine ⟨?_, ?_, by omega, by omega⟩ <;> rw [BitVec.toNat_ofNat] <;> exact Nat.mod_eq_of_lt (by omega)

/-- Everything a returned pair says of the operands (R80, R83, R84, R85). -/
theorem computeTiming_pair {f clk : Word} {div : Byte} {psc arr : BitVec 16} (h : computeTiming f clk div = .pair psc arr) :
    div ≠ 0 ∧ f ≠ 0 ∧ 1 ≤ timerClock clk div / f.toNat ∧
      psc.toNat = (timerClock clk div / f.toNat - 1) / 65536 ∧
      arr.toNat = timerClock clk div / f.toNat / ((timerClock clk div / f.toNat - 1) / 65536 + 1) := by
  unfold computeTiming at h
  dsimp only at h
  split at h
  · rename_i hd
    split at h
    · cases h
    · rename_i hf
      split at h
      · cases h
      · obtain ⟨h1, h2, -, -⟩ := timingOfTotal_pair h
        exact ⟨(divLegal_iff div).1 hd, hf, by omega, h1, h2⟩
  · cases h

/-- The prescaler's register is never past the total (R88 item 1: "psc + 1 = ceil(total / 65536) <= total"). -/
theorem prescaler_succ_le {total : Nat} (h : 1 ≤ total) : (total - 1) / 65536 + 1 ≤ total := by omega

/-- A returned auto-reload is at least 1 (R88 item 1). -/
theorem computeTiming_arr_pos {f clk : Word} {div : Byte} {psc arr : BitVec 16}
    (h : computeTiming f clk div = .pair psc arr) : 1 ≤ arr.toNat := by
  obtain ⟨-, -, h1, -, h2⟩ := computeTiming_pair h
  rw [h2]
  exact (Nat.le_div_iff_mul_le (Nat.succ_pos _)).2 (by rw [Nat.one_mul]; exact prescaler_succ_le h1)

end Sys2Proof.Machine
end

