-- ==== Sys2Proof/Laws/Decode.lean ====
section
/-! SUPPORT. The two views of a command word, its bits and its fields, are the same thing (spec/30_encoding.md R56),
and so are its bits and its twelve bytes (spec/20_memory.md R41). -/

namespace Sys2Proof

open BitVec

/-- Reading the fields of a word assembled from fields. -/
@[simp] theorem Fields.ofWord_word (x : Fields) : Fields.ofWord x.word = x := by
  obtain ⟨op, ch, ev, div, pv, zero, arg, clk⟩ := x
  simp only [Fields.ofWord, Fields.word, Fields.mk.injEq]
  refine ⟨extractLsb'_append_eq_right, ?_, ?_, ?_, ?_, ?_, ?_, ?_⟩ <;>
  · repeat rw [extractLsb'_append_eq_of_le (by decide)]
    first
    | exact extractLsb'_append_eq_right
    | exact extractLsb'_eq_self

/-- Assembling the fields read from a word. -/
@[simp] theorem Fields.word_ofWord (w : CommandWord) : (Fields.ofWord w).word = w := by
  simp only [Fields.ofWord, Fields.word]
  repeat rw [extractLsb'_append_extractLsb'_eq_extractLsb' (by rfl)]
  exact extractLsb'_eq_self

/-- A command word is determined by its fields. -/
theorem Fields.word_injective {x y : Fields} (h : x.word = y.word) : x = y := by
  rw [← Fields.ofWord_word x, h, Fields.ofWord_word]

@[simp] theorem Channel.ofBits_bits (c : Channel) : Channel.ofBits c.bits = c := by cases c <;> rfl

@[simp] theorem Channel.bits_ofBits (b : BitVec 2) : (Channel.ofBits b).bits = b := by
  revert b
  decide

/-- The four bytes of a word, put together again. -/
theorem wordOfBytes_bytes (x : Word) :
    wordOfBytes (x.extractLsb' 0 8) (x.extractLsb' 8 8) (x.extractLsb' 16 8) (x.extractLsb' 24 8) = x := by
  simp only [wordOfBytes]
  repeat rw [extractLsb'_append_extractLsb'_eq_extractLsb' (by rfl)]
  exact extractLsb'_eq_self

/-- The twelve bytes of a command word are taken from the stream as that word, and no byte more (R41, R51). -/
@[simp] theorem takeCommand_commandBytes (w : CommandWord) (rest : List Byte) :
    takeCommand (commandBytes w ++ rest) = some (w, rest) := by
  simp only [commandBytes, bytesOfWord, List.cons_append, List.nil_append, takeCommand, wordOfBytes_bytes]
  repeat rw [extractLsb'_append_extractLsb'_eq_extractLsb' (by rfl)]
  rw [extractLsb'_eq_self]

/-- Fewer than twelve bytes are no command (R42). -/
theorem takeCommand_short {bytes : List Byte} (h : bytes.length < 12) : takeCommand bytes = none := by
  unfold takeCommand
  split
  · simp only [List.length_cons] at h
    omega
  · rfl

/-- The decoder on the bytes of a word is the decoder on the word. -/
@[simp] theorem decode_commandBytes (w : CommandWord) (rest : List Byte) :
    decode (commandBytes w ++ rest) = decodeWord w := by
  simp [decode]

/-- What decodes has zeros in every field its format does not use (R63 step 2). -/
theorem decodeAs_command {u : Uses} {x : Fields} {i j : Instr} (h : decodeAs u x i = .command j) :
    unusedZero u x = true ∧ i = j := by
  unfold decodeAs at h
  split at h
  · exact ⟨by assumption, Decoded.command.inj h⟩
  · cases h

theorem decodeEvent_command {x : Fields} {i : Event → Instr} {j : Instr} (h : decodeEvent x i = .command j) :
    unusedZero formatE x = true ∧ x.ev = 0 ∧ i .update = j := by
  unfold decodeEvent at h
  split at h
  · split at h
    · exact ⟨by assumption, by assumption, Decoded.command.inj h⟩
    · cases h
  · cases h

end Sys2Proof
end

