-- ==== Sys2Proof/Laws/State.lean ====
section
/-! SUPPORT. One lemma per field per update of State, true by rfl, so that no later proof unfolds a record update. -/

namespace Sys2Proof.Machine

/-! `emit` -/

@[simp] theorem emit_cfg (e : OutEvent) (s : State) : (emit e s).cfg = s.cfg := rfl
@[simp] theorem emit_owner (e : OutEvent) (s : State) : (emit e s).owner = s.owner := rfl
@[simp] theorem emit_snapClk (e : OutEvent) (s : State) : (emit e s).snapClk = s.snapClk := rfl
@[simp] theorem emit_snapDiv (e : OutEvent) (s : State) : (emit e s).snapDiv = s.snapDiv := rfl
@[simp] theorem emit_freq (e : OutEvent) (s : State) : (emit e s).freq = s.freq := rfl
@[simp] theorem emit_cen (e : OutEvent) (s : State) : (emit e s).cen = s.cen := rfl
@[simp] theorem emit_uie (e : OutEvent) (s : State) : (emit e s).uie = s.uie := rfl
@[simp] theorem emit_uif (e : OutEvent) (s : State) : (emit e s).uif = s.uif := rfl
@[simp] theorem emit_cnt (e : OutEvent) (s : State) : (emit e s).cnt = s.cnt := rfl
@[simp] theorem emit_psc (e : OutEvent) (s : State) : (emit e s).psc = s.psc := rfl
@[simp] theorem emit_arr (e : OutEvent) (s : State) : (emit e s).arr = s.arr := rfl
@[simp] theorem emit_ch1 (e : OutEvent) (s : State) : (emit e s).ch1 = s.ch1 := rfl
@[simp] theorem emit_ch2 (e : OutEvent) (s : State) : (emit e s).ch2 = s.ch2 := rfl
@[simp] theorem emit_ch3 (e : OutEvent) (s : State) : (emit e s).ch3 = s.ch3 := rfl
@[simp] theorem emit_ch4 (e : OutEvent) (s : State) : (emit e s).ch4 = s.ch4 := rfl
@[simp] theorem emit_undef (e : OutEvent) (s : State) : (emit e s).undef = s.undef := rfl
@[simp] theorem emit_trace (e : OutEvent) (s : State) : (emit e s).trace = s.trace ++ [e] := rfl
@[simp] theorem emit_responses (e : OutEvent) (s : State) : (emit e s).responses = s.responses := rfl
@[simp] theorem emit_port (e : OutEvent) (s : State) : (emit e s).port = s.port := rfl
@[simp] theorem emit_sched (e : OutEvent) (s : State) : (emit e s).sched = s.sched := rfl

/-! `answer` -/

@[simp] theorem answer_cfg (x : Response) (s : State) : (answer x s).cfg = s.cfg := rfl
@[simp] theorem answer_owner (x : Response) (s : State) : (answer x s).owner = s.owner := rfl
@[simp] theorem answer_snapClk (x : Response) (s : State) : (answer x s).snapClk = s.snapClk := rfl
@[simp] theorem answer_snapDiv (x : Response) (s : State) : (answer x s).snapDiv = s.snapDiv := rfl
@[simp] theorem answer_freq (x : Response) (s : State) : (answer x s).freq = s.freq := rfl
@[simp] theorem answer_cen (x : Response) (s : State) : (answer x s).cen = s.cen := rfl
@[simp] theorem answer_uie (x : Response) (s : State) : (answer x s).uie = s.uie := rfl
@[simp] theorem answer_uif (x : Response) (s : State) : (answer x s).uif = s.uif := rfl
@[simp] theorem answer_cnt (x : Response) (s : State) : (answer x s).cnt = s.cnt := rfl
@[simp] theorem answer_psc (x : Response) (s : State) : (answer x s).psc = s.psc := rfl
@[simp] theorem answer_arr (x : Response) (s : State) : (answer x s).arr = s.arr := rfl
@[simp] theorem answer_ch1 (x : Response) (s : State) : (answer x s).ch1 = s.ch1 := rfl
@[simp] theorem answer_ch2 (x : Response) (s : State) : (answer x s).ch2 = s.ch2 := rfl
@[simp] theorem answer_ch3 (x : Response) (s : State) : (answer x s).ch3 = s.ch3 := rfl
@[simp] theorem answer_ch4 (x : Response) (s : State) : (answer x s).ch4 = s.ch4 := rfl
@[simp] theorem answer_undef (x : Response) (s : State) : (answer x s).undef = s.undef := rfl
@[simp] theorem answer_trace (x : Response) (s : State) : (answer x s).trace = s.trace := rfl
@[simp] theorem answer_responses (x : Response) (s : State) : (answer x s).responses = s.responses ++ [x] := rfl
@[simp] theorem answer_port (x : Response) (s : State) : (answer x s).port = s.port := rfl
@[simp] theorem answer_sched (x : Response) (s : State) : (answer x s).sched = s.sched := rfl

/-! `recordFreq` -/

@[simp] theorem recordFreq_cfg (f : Word) (s : State) : (recordFreq f s).cfg = s.cfg := rfl
@[simp] theorem recordFreq_owner (f : Word) (s : State) : (recordFreq f s).owner = s.owner := rfl
@[simp] theorem recordFreq_snapClk (f : Word) (s : State) : (recordFreq f s).snapClk = s.snapClk := rfl
@[simp] theorem recordFreq_snapDiv (f : Word) (s : State) : (recordFreq f s).snapDiv = s.snapDiv := rfl
@[simp] theorem recordFreq_freq (f : Word) (s : State) : (recordFreq f s).freq = f := rfl
@[simp] theorem recordFreq_cen (f : Word) (s : State) : (recordFreq f s).cen = s.cen := rfl
@[simp] theorem recordFreq_uie (f : Word) (s : State) : (recordFreq f s).uie = s.uie := rfl
@[simp] theorem recordFreq_uif (f : Word) (s : State) : (recordFreq f s).uif = s.uif := rfl
@[simp] theorem recordFreq_cnt (f : Word) (s : State) : (recordFreq f s).cnt = s.cnt := rfl
@[simp] theorem recordFreq_psc (f : Word) (s : State) : (recordFreq f s).psc = s.psc := rfl
@[simp] theorem recordFreq_arr (f : Word) (s : State) : (recordFreq f s).arr = s.arr := rfl
@[simp] theorem recordFreq_ch1 (f : Word) (s : State) : (recordFreq f s).ch1 = s.ch1 := rfl
@[simp] theorem recordFreq_ch2 (f : Word) (s : State) : (recordFreq f s).ch2 = s.ch2 := rfl
@[simp] theorem recordFreq_ch3 (f : Word) (s : State) : (recordFreq f s).ch3 = s.ch3 := rfl
@[simp] theorem recordFreq_ch4 (f : Word) (s : State) : (recordFreq f s).ch4 = s.ch4 := rfl
@[simp] theorem recordFreq_undef (f : Word) (s : State) : (recordFreq f s).undef = s.undef := rfl
@[simp] theorem recordFreq_trace (f : Word) (s : State) : (recordFreq f s).trace = s.trace := rfl
@[simp] theorem recordFreq_responses (f : Word) (s : State) : (recordFreq f s).responses = s.responses := rfl
@[simp] theorem recordFreq_port (f : Word) (s : State) : (recordFreq f s).port = s.port := rfl
@[simp] theorem recordFreq_sched (f : Word) (s : State) : (recordFreq f s).sched = s.sched := rfl

/-! `acquire` -/

@[simp] theorem acquire_cfg (o : Owner) (clk : Word) (div : Byte) (s : State) : (acquire o clk div s).cfg = s.cfg := rfl
@[simp] theorem acquire_owner (o : Owner) (clk : Word) (div : Byte) (s : State) : (acquire o clk div s).owner = o := rfl
@[simp] theorem acquire_snapClk (o : Owner) (clk : Word) (div : Byte) (s : State) : (acquire o clk div s).snapClk = clk := rfl
@[simp] theorem acquire_snapDiv (o : Owner) (clk : Word) (div : Byte) (s : State) : (acquire o clk div s).snapDiv = div := rfl
@[simp] theorem acquire_freq (o : Owner) (clk : Word) (div : Byte) (s : State) : (acquire o clk div s).freq = s.freq := rfl
@[simp] theorem acquire_cen (o : Owner) (clk : Word) (div : Byte) (s : State) : (acquire o clk div s).cen = s.cen := rfl
@[simp] theorem acquire_uie (o : Owner) (clk : Word) (div : Byte) (s : State) : (acquire o clk div s).uie = s.uie := rfl
@[simp] theorem acquire_uif (o : Owner) (clk : Word) (div : Byte) (s : State) : (acquire o clk div s).uif = s.uif := rfl
@[simp] theorem acquire_cnt (o : Owner) (clk : Word) (div : Byte) (s : State) : (acquire o clk div s).cnt = s.cnt := rfl
@[simp] theorem acquire_psc (o : Owner) (clk : Word) (div : Byte) (s : State) : (acquire o clk div s).psc = s.psc := rfl
@[simp] theorem acquire_arr (o : Owner) (clk : Word) (div : Byte) (s : State) : (acquire o clk div s).arr = s.arr := rfl
@[simp] theorem acquire_ch1 (o : Owner) (clk : Word) (div : Byte) (s : State) : (acquire o clk div s).ch1 = s.ch1 := rfl
@[simp] theorem acquire_ch2 (o : Owner) (clk : Word) (div : Byte) (s : State) : (acquire o clk div s).ch2 = s.ch2 := rfl
@[simp] theorem acquire_ch3 (o : Owner) (clk : Word) (div : Byte) (s : State) : (acquire o clk div s).ch3 = s.ch3 := rfl
@[simp] theorem acquire_ch4 (o : Owner) (clk : Word) (div : Byte) (s : State) : (acquire o clk div s).ch4 = s.ch4 := rfl
@[simp] theorem acquire_undef (o : Owner) (clk : Word) (div : Byte) (s : State) : (acquire o clk div s).undef = s.undef := rfl
@[simp] theorem acquire_trace (o : Owner) (clk : Word) (div : Byte) (s : State) : (acquire o clk div s).trace = s.trace := rfl
@[simp] theorem acquire_responses (o : Owner) (clk : Word) (div : Byte) (s : State) : (acquire o clk div s).responses = s.responses := rfl
@[simp] theorem acquire_port (o : Owner) (clk : Word) (div : Byte) (s : State) : (acquire o clk div s).port = s.port := rfl
@[simp] theorem acquire_sched (o : Owner) (clk : Word) (div : Byte) (s : State) : (acquire o clk div s).sched = s.sched := rfl

/-! `periphReset` -/

@[simp] theorem periphReset_cfg (s : State) : (periphReset s).cfg = s.cfg := rfl
@[simp] theorem periphReset_owner (s : State) : (periphReset s).owner = s.owner := rfl
@[simp] theorem periphReset_snapClk (s : State) : (periphReset s).snapClk = s.snapClk := rfl
@[simp] theorem periphReset_snapDiv (s : State) : (periphReset s).snapDiv = s.snapDiv := rfl
@[simp] theorem periphReset_freq (s : State) : (periphReset s).freq = s.freq := rfl
@[simp] theorem periphReset_cen (s : State) : (periphReset s).cen = false := rfl
@[simp] theorem periphReset_uie (s : State) : (periphReset s).uie = false := rfl
@[simp] theorem periphReset_uif (s : State) : (periphReset s).uif = false := rfl
@[simp] theorem periphReset_cnt (s : State) : (periphReset s).cnt = 0 := rfl
@[simp] theorem periphReset_psc (s : State) : (periphReset s).psc = resetPsc := rfl
@[simp] theorem periphReset_arr (s : State) : (periphReset s).arr = resetArr s.cfg.width := rfl
@[simp] theorem periphReset_ch1 (s : State) : (periphReset s).ch1 = .reset := rfl
@[simp] theorem periphReset_ch2 (s : State) : (periphReset s).ch2 = .reset := rfl
@[simp] theorem periphReset_ch3 (s : State) : (periphReset s).ch3 = .reset := rfl
@[simp] theorem periphReset_ch4 (s : State) : (periphReset s).ch4 = .reset := rfl
@[simp] theorem periphReset_undef (s : State) : (periphReset s).undef = s.undef := rfl
@[simp] theorem periphReset_trace (s : State) : (periphReset s).trace = s.trace := rfl
@[simp] theorem periphReset_responses (s : State) : (periphReset s).responses = s.responses := rfl
@[simp] theorem periphReset_port (s : State) : (periphReset s).port = s.port := rfl
@[simp] theorem periphReset_sched (s : State) : (periphReset s).sched = s.sched := rfl

/-! `endTurn` -/

@[simp] theorem endTurn_cfg (s : State) : (endTurn s).cfg = s.cfg := rfl
@[simp] theorem endTurn_owner (s : State) : (endTurn s).owner = s.owner := rfl
@[simp] theorem endTurn_snapClk (s : State) : (endTurn s).snapClk = s.snapClk := rfl
@[simp] theorem endTurn_snapDiv (s : State) : (endTurn s).snapDiv = s.snapDiv := rfl
@[simp] theorem endTurn_freq (s : State) : (endTurn s).freq = s.freq := rfl
@[simp] theorem endTurn_cen (s : State) : (endTurn s).cen = s.cen := rfl
@[simp] theorem endTurn_uie (s : State) : (endTurn s).uie = s.uie := rfl
@[simp] theorem endTurn_uif (s : State) : (endTurn s).uif = s.uif := rfl
@[simp] theorem endTurn_cnt (s : State) : (endTurn s).cnt = s.cnt := rfl
@[simp] theorem endTurn_psc (s : State) : (endTurn s).psc = s.psc := rfl
@[simp] theorem endTurn_arr (s : State) : (endTurn s).arr = s.arr := rfl
@[simp] theorem endTurn_ch1 (s : State) : (endTurn s).ch1 = s.ch1 := rfl
@[simp] theorem endTurn_ch2 (s : State) : (endTurn s).ch2 = s.ch2 := rfl
@[simp] theorem endTurn_ch3 (s : State) : (endTurn s).ch3 = s.ch3 := rfl
@[simp] theorem endTurn_ch4 (s : State) : (endTurn s).ch4 = s.ch4 := rfl
@[simp] theorem endTurn_undef (s : State) : (endTurn s).undef = s.undef := rfl
@[simp] theorem endTurn_trace (s : State) : (endTurn s).trace = s.trace := rfl
@[simp] theorem endTurn_responses (s : State) : (endTurn s).responses = s.responses := rfl
@[simp] theorem endTurn_port (s : State) : (endTurn s).port = s.port := rfl
@[simp] theorem endTurn_sched (s : State) : (endTurn s).sched = s.sched.tail := rfl

/-! `consume` -/

@[simp] theorem consume_cfg (rest : List Byte) (s : State) : (consume rest s).cfg = s.cfg := rfl
@[simp] theorem consume_owner (rest : List Byte) (s : State) : (consume rest s).owner = s.owner := rfl
@[simp] theorem consume_snapClk (rest : List Byte) (s : State) : (consume rest s).snapClk = s.snapClk := rfl
@[simp] theorem consume_snapDiv (rest : List Byte) (s : State) : (consume rest s).snapDiv = s.snapDiv := rfl
@[simp] theorem consume_freq (rest : List Byte) (s : State) : (consume rest s).freq = s.freq := rfl
@[simp] theorem consume_cen (rest : List Byte) (s : State) : (consume rest s).cen = s.cen := rfl
@[simp] theorem consume_uie (rest : List Byte) (s : State) : (consume rest s).uie = s.uie := rfl
@[simp] theorem consume_uif (rest : List Byte) (s : State) : (consume rest s).uif = s.uif := rfl
@[simp] theorem consume_cnt (rest : List Byte) (s : State) : (consume rest s).cnt = s.cnt := rfl
@[simp] theorem consume_psc (rest : List Byte) (s : State) : (consume rest s).psc = s.psc := rfl
@[simp] theorem consume_arr (rest : List Byte) (s : State) : (consume rest s).arr = s.arr := rfl
@[simp] theorem consume_ch1 (rest : List Byte) (s : State) : (consume rest s).ch1 = s.ch1 := rfl
@[simp] theorem consume_ch2 (rest : List Byte) (s : State) : (consume rest s).ch2 = s.ch2 := rfl
@[simp] theorem consume_ch3 (rest : List Byte) (s : State) : (consume rest s).ch3 = s.ch3 := rfl
@[simp] theorem consume_ch4 (rest : List Byte) (s : State) : (consume rest s).ch4 = s.ch4 := rfl
@[simp] theorem consume_undef (rest : List Byte) (s : State) : (consume rest s).undef = s.undef := rfl
@[simp] theorem consume_trace (rest : List Byte) (s : State) : (consume rest s).trace = s.trace := rfl
@[simp] theorem consume_responses (rest : List Byte) (s : State) : (consume rest s).responses = s.responses := rfl
@[simp] theorem consume_port (rest : List Byte) (s : State) : (consume rest s).port = rest := rfl
@[simp] theorem consume_sched (rest : List Byte) (s : State) : (consume rest s).sched = s.sched := rfl

/-! `updateEvent` -/

@[simp] theorem updateEvent_cfg (s : State) : (updateEvent s).cfg = s.cfg := rfl
@[simp] theorem updateEvent_owner (s : State) : (updateEvent s).owner = s.owner := rfl
@[simp] theorem updateEvent_snapClk (s : State) : (updateEvent s).snapClk = s.snapClk := rfl
@[simp] theorem updateEvent_snapDiv (s : State) : (updateEvent s).snapDiv = s.snapDiv := rfl
@[simp] theorem updateEvent_freq (s : State) : (updateEvent s).freq = s.freq := rfl
@[simp] theorem updateEvent_cen (s : State) : (updateEvent s).cen = s.cen := rfl
@[simp] theorem updateEvent_uie (s : State) : (updateEvent s).uie = s.uie := rfl
@[simp] theorem updateEvent_uif (s : State) : (updateEvent s).uif = true := rfl
@[simp] theorem updateEvent_cnt (s : State) : (updateEvent s).cnt = s.cnt := rfl
@[simp] theorem updateEvent_psc (s : State) : (updateEvent s).psc = s.psc := rfl
@[simp] theorem updateEvent_arr (s : State) : (updateEvent s).arr = s.arr := rfl
@[simp] theorem updateEvent_ch1 (s : State) : (updateEvent s).ch1 = transfer s.ch1 := rfl
@[simp] theorem updateEvent_ch2 (s : State) : (updateEvent s).ch2 = transfer s.ch2 := rfl
@[simp] theorem updateEvent_ch3 (s : State) : (updateEvent s).ch3 = transfer s.ch3 := rfl
@[simp] theorem updateEvent_ch4 (s : State) : (updateEvent s).ch4 = transfer s.ch4 := rfl
@[simp] theorem updateEvent_undef (s : State) : (updateEvent s).undef = s.undef := rfl
@[simp] theorem updateEvent_trace (s : State) : (updateEvent s).trace = s.trace := rfl
@[simp] theorem updateEvent_responses (s : State) : (updateEvent s).responses = s.responses := rfl
@[simp] theorem updateEvent_port (s : State) : (updateEvent s).port = s.port := rfl
@[simp] theorem updateEvent_sched (s : State) : (updateEvent s).sched = s.sched := rfl

/-! `setChan`: the channel given, and nothing else -/

@[simp] theorem chan_setChan (s : State) (c : Channel) (x : Chan) : (s.setChan c x).chan c = x := by cases c <;> rfl

theorem chan_setChan_ne (s : State) (x : Chan) {c d : Channel} (h : d ≠ c) : (s.setChan c x).chan d = s.chan d := by
  cases c <;> cases d <;> first | rfl | exact absurd rfl h

@[simp] theorem setChan_cfg (s : State) (c : Channel) (x : Chan) : (s.setChan c x).cfg = s.cfg := by cases c <;> rfl
@[simp] theorem setChan_owner (s : State) (c : Channel) (x : Chan) : (s.setChan c x).owner = s.owner := by cases c <;> rfl
@[simp] theorem setChan_snapClk (s : State) (c : Channel) (x : Chan) : (s.setChan c x).snapClk = s.snapClk := by cases c <;> rfl
@[simp] theorem setChan_snapDiv (s : State) (c : Channel) (x : Chan) : (s.setChan c x).snapDiv = s.snapDiv := by cases c <;> rfl
@[simp] theorem setChan_freq (s : State) (c : Channel) (x : Chan) : (s.setChan c x).freq = s.freq := by cases c <;> rfl
@[simp] theorem setChan_cen (s : State) (c : Channel) (x : Chan) : (s.setChan c x).cen = s.cen := by cases c <;> rfl
@[simp] theorem setChan_uie (s : State) (c : Channel) (x : Chan) : (s.setChan c x).uie = s.uie := by cases c <;> rfl
@[simp] theorem setChan_uif (s : State) (c : Channel) (x : Chan) : (s.setChan c x).uif = s.uif := by cases c <;> rfl
@[simp] theorem setChan_cnt (s : State) (c : Channel) (x : Chan) : (s.setChan c x).cnt = s.cnt := by cases c <;> rfl
@[simp] theorem setChan_psc (s : State) (c : Channel) (x : Chan) : (s.setChan c x).psc = s.psc := by cases c <;> rfl
@[simp] theorem setChan_arr (s : State) (c : Channel) (x : Chan) : (s.setChan c x).arr = s.arr := by cases c <;> rfl
@[simp] theorem setChan_undef (s : State) (c : Channel) (x : Chan) : (s.setChan c x).undef = s.undef := by cases c <;> rfl
@[simp] theorem setChan_trace (s : State) (c : Channel) (x : Chan) : (s.setChan c x).trace = s.trace := by cases c <;> rfl
@[simp] theorem setChan_responses (s : State) (c : Channel) (x : Chan) : (s.setChan c x).responses = s.responses := by cases c <;> rfl
@[simp] theorem setChan_port (s : State) (c : Channel) (x : Chan) : (s.setChan c x).port = s.port := by cases c <;> rfl
@[simp] theorem setChan_sched (s : State) (c : Channel) (x : Chan) : (s.setChan c x).sched = s.sched := by cases c <;> rfl

/-! `chan` under the updates that touch no channel -/

@[simp] theorem emit_chan (e : OutEvent) (s : State) (c : Channel) : (emit e s).chan c = s.chan c := by cases c <;> rfl
@[simp] theorem answer_chan (x : Response) (s : State) (c : Channel) : (answer x s).chan c = s.chan c := by cases c <;> rfl
@[simp] theorem recordFreq_chan (f : Word) (s : State) (c : Channel) : (recordFreq f s).chan c = s.chan c := by cases c <;> rfl
@[simp] theorem acquire_chan (o : Owner) (clk : Word) (div : Byte) (s : State) (c : Channel) : (acquire o clk div s).chan c = s.chan c := by cases c <;> rfl
@[simp] theorem endTurn_chan (s : State) (c : Channel) : (endTurn s).chan c = s.chan c := by cases c <;> rfl
@[simp] theorem consume_chan (rest : List Byte) (s : State) (c : Channel) : (consume rest s).chan c = s.chan c := by cases c <;> rfl

@[simp] theorem periphReset_chan (s : State) (c : Channel) : (periphReset s).chan c = .reset := by cases c <;> rfl

@[simp] theorem updateEvent_chan (s : State) (c : Channel) : (updateEvent s).chan c = transfer (s.chan c) := by
  cases c <;> rfl

@[simp] theorem resetOf_chan (cfg : Config) (c : Channel) : (State.resetOf cfg).chan c = .reset := by cases c <;> rfl

end Sys2Proof.Machine
end

