-- ==== Sys2Proof/Laws/Ops.lean ====
section
/-! SUPPORT. One law per shared operation, saying once everything it does; later proofs cite these and unfold nothing. -/

namespace Sys2Proof.Machine

/-! ### Register words -/

@[simp] theorem flagWord_bit_zero (b : Bool) : (flagWord b)[0] = b := by cases b <;> rfl

theorem truncW_of_fits {w : Width} {v : Word} (h : v.toNat < 2 ^ w.bits) : truncW w v = v := by
  cases w with
  | w16 =>
    have h' : v.toNat < 2 ^ 16 := h
    apply BitVec.eq_of_toNat_eq
    rw [truncW, BitVec.toNat_and]
    exact (Nat.and_two_pow_sub_one_eq_mod v.toNat 16).trans (Nat.mod_eq_of_lt h')
  | w32 => rfl

@[simp] theorem truncW_zero (w : Width) : truncW w 0#32 = 0#32 := by cases w <;> rfl

theorem truncW_fits (w : Width) (v : Word) : (truncW w v).toNat < 2 ^ w.bits := by
  cases w with
  | w16 =>
    rw [truncW, BitVec.toNat_and]
    exact Nat.lt_of_le_of_lt Nat.and_le_right (by decide)
  | w32 => exact v.isLt

@[simp] theorem truncW_half (w : Width) (v : BitVec 16) : truncW w (v.setWidth 32) = v.setWidth 32 := by
  apply truncW_of_fits
  rw [BitVec.toNat_setWidth_of_le (by decide)]
  exact Nat.lt_of_lt_of_le v.isLt (by cases w <;> decide)

/-! ### Register writes -/

theorem writeReg_cr (b : Bool) (s : State) :
    writeReg .cr (flagWord b) s = { s with cen := b, trace := s.trace ++ [.regw .cr (flagWord b)] } := by
  simp [writeReg, memWrite, emit]

theorem writeReg_ier (b : Bool) (s : State) :
    writeReg .ier (flagWord b) s = { s with uie := b, trace := s.trace ++ [.regw .ier (flagWord b)] } := by
  simp [writeReg, memWrite, emit]

theorem writeReg_sr (b : Bool) (s : State) :
    writeReg .sr (flagWord b) s = { s with uif := b, trace := s.trace ++ [.regw .sr (flagWord b)] } := by
  simp [writeReg, memWrite, emit]

theorem writeReg_cnt_zero (s : State) :
    writeReg .cnt 0 s = { s with cnt := 0, trace := s.trace ++ [.regw .cnt 0] } := by
  simp [writeReg, memWrite, emit]

theorem writeReg_ccr {v : Word} {s : State} (c : Channel) (h : v.toNat < 2 ^ s.cfg.width.bits) :
    writeReg (.ccr c) v s = emit (.regw (.ccr c) v) (s.setChan c { s.chan c with ccr := v }) := by
  simp [writeReg, memWrite, truncW_of_fits h]

theorem reprogram_eq (psc arr : BitVec 16) (s : State) :
    reprogram psc arr s =
      { s with
        psc := psc, arr := arr.setWidth 32
        trace := s.trace ++ [.regw .psc (psc.setWidth 32), .regw .arr (arr.setWidth 32)] } := by
  have h : (psc.setWidth 32).setWidth 16 = psc := by simp
  simp [reprogram, writeReg, memWrite, emit, h]

theorem startSeq_eq (psc arr : BitVec 16) (f : Word) (s : State) :
    startSeq psc arr f s =
      { s with
        cen := true, psc := psc, arr := arr.setWidth 32, cnt := 0, freq := f
        trace := s.trace ++
          [.regw .cr 0, .regw .psc (psc.setWidth 32), .regw .arr (arr.setWidth 32), .regw .cnt 0, .regw .cr 1] } := by
  rw [startSeq, writeReg_cr, writeReg_cnt_zero, reprogram_eq, writeReg_cr]
  simp [recordFreq, flagWord]

theorem busSeq_eq (s : State) :
    busSeq s =
      { periphReset s with trace := s.trace ++ [.busEnable, .busResetAssert, .busResetClear] } := by
  simp [busSeq, emit, periphReset]

/-! ### The channel-mode registers -/

/-- The byte-level heart of ENABLE: replacing both fields of the low byte keeps the high byte's, and the other way
round. -/
theorem withModeByte_enable (x y : Chan) :
    (withPreload .ch1 true (withMode .ch1 pwmMode1 (modeWord x y)) = modeWord { x with ocm := 6, ocpe := true } y) ∧
    (withPreload .ch2 true (withMode .ch2 pwmMode1 (modeWord x y)) = modeWord x { y with ocm := 6, ocpe := true }) := by
  obtain ⟨_, _, m, p⟩ := x
  obtain ⟨_, _, n, q⟩ := y
  simp only [modeWord, modeByte]
  revert m p n q
  decide

theorem withModeByte_disable (x y : Chan) :
    (withPreload .ch1 false (modeWord x y) = modeWord { x with ocpe := false } y) ∧
    (withPreload .ch2 false (modeWord x y) = modeWord x { y with ocpe := false }) := by
  obtain ⟨_, _, m, p⟩ := x
  obtain ⟨_, _, n, q⟩ := y
  simp only [modeWord, modeByte]
  revert m p n q
  decide

/-- A channel-mode register reads back the fields it holds. -/
theorem modeWord_bytes (x y : Chan) (u v : Chan) :
    u.withModeByte ((modeWord x y).extractLsb' 0 8) = { u with ocm := x.ocm, ocpe := x.ocpe } ∧
    v.withModeByte ((modeWord x y).extractLsb' 8 8) = { v with ocm := y.ocm, ocpe := y.ocpe } := by
  have h : ∀ (m : BitVec 3) (p : Bool) (n : BitVec 3) (q : Bool),
      let w : Word := 0#16 ++ (0#1 ++ n ++ BitVec.ofBool q ++ 0#3) ++ (0#1 ++ m ++ BitVec.ofBool p ++ 0#3)
      (w.extractLsb' 0 8).extractLsb' 4 3 = m ∧ (w.extractLsb' 0 8).getLsbD 3 = p ∧
      (w.extractLsb' 8 8).extractLsb' 4 3 = n ∧ (w.extractLsb' 8 8).getLsbD 3 = q := by decide
  obtain ⟨h1, h2, h3, h4⟩ := h x.ocm x.ocpe y.ocm y.ocpe
  exact ⟨by simp only [Chan.withModeByte, modeWord, modeByte]; rw [h1, h2],
    by simp only [Chan.withModeByte, modeWord, modeByte]; rw [h3, h4]⟩

/-- The mode byte of a channel that took its fields from a byte is that byte's defined bits (R25). -/
theorem modeByte_withModeByte (x : Chan) (b : Byte) : modeByte (x.withModeByte b) = b &&& 0x78 := by
  simp only [modeByte, Chan.withModeByte]
  revert b
  decide

/-- The same of a whole channel-mode register. -/
theorem modeWord_withModeByte (x y : Chan) (v : Word) :
    modeWord (x.withModeByte (v.extractLsb' 0 8)) (y.withModeByte (v.extractLsb' 8 8)) = v &&& 0x7878 := by
  have hv : v = v.extractLsb' 16 16 ++ v.extractLsb' 8 8 ++ v.extractLsb' 0 8 := by
    repeat rw [BitVec.extractLsb'_append_extractLsb'_eq_extractLsb' (by rfl)]
    exact BitVec.extractLsb'_eq_self.symm
  have hm : (0x7878 : Word) = 0#16 ++ 0x78#8 ++ 0x78#8 := by decide
  rw [modeWord, modeByte_withModeByte, modeByte_withModeByte, hm]
  conv => rhs; rw [hv]
  rw [BitVec.and_append, BitVec.and_append, BitVec.and_zero]
  rfl

/-- Writing back the mode word of two channels that differ from the stored ones in the mode fields only. -/
theorem memWrite_modeWord_low {s : State} {x y : Chan} (hx : s.ch1 = { x with ocm := s.ch1.ocm, ocpe := s.ch1.ocpe })
    (hy : s.ch2 = { y with ocm := s.ch2.ocm, ocpe := s.ch2.ocpe }) :
    memWrite .ccmr1 (modeWord x y) s = { s with ch1 := x, ch2 := y } := by
  obtain ⟨h1, h2⟩ := modeWord_bytes x y s.ch1 s.ch2
  simp only [memWrite, h1, h2]
  rw [hx, hy]

theorem memWrite_modeWord_high {s : State} {x y : Chan} (hx : s.ch3 = { x with ocm := s.ch3.ocm, ocpe := s.ch3.ocpe })
    (hy : s.ch4 = { y with ocm := s.ch4.ocm, ocpe := s.ch4.ocpe }) :
    memWrite .ccmr2 (modeWord x y) s = { s with ch3 := x, ch4 := y } := by
  obtain ⟨h1, h2⟩ := modeWord_bytes x y s.ch3 s.ch4
  simp only [memWrite, h1, h2]
  rw [hx, hy]

/-- ENABLE_STEP(c): the two fields of channel c and the REGW event of its register, nothing else (R130, R136). -/
theorem enableStep_eq (c : Channel) (s : State) :
    enableStep c s =
      emit (.regw (ccmrOf c) (memRead (ccmrOf c) (s.setChan c { s.chan c with ocm := 6, ocpe := true })))
        (s.setChan c { s.chan c with ocm := 6, ocpe := true }) := by
  cases c with
  | ch1 =>
    simp only [enableStep, writeReg, ccmrOf, memRead, State.setChan, State.chan, (withModeByte_enable s.ch1 s.ch2).1]
    rw [memWrite_modeWord_low] <;> rfl
  | ch2 =>
    simp only [enableStep, writeReg, ccmrOf, memRead, State.setChan, State.chan, (withModeByte_enable s.ch1 s.ch2).2]
    rw [memWrite_modeWord_low] <;> rfl
  | ch3 =>
    have h := (withModeByte_enable s.ch3 s.ch4).1
    simp only [withPreload, withMode, fieldShift] at h
    simp only [enableStep, writeReg, ccmrOf, memRead, State.setChan, State.chan, withPreload, withMode, fieldShift, h]
    rw [memWrite_modeWord_high] <;> rfl
  | ch4 =>
    have h := (withModeByte_enable s.ch3 s.ch4).2
    simp only [withPreload, withMode, fieldShift] at h
    simp only [enableStep, writeReg, ccmrOf, memRead, State.setChan, State.chan, withPreload, withMode, fieldShift, h]
    rw [memWrite_modeWord_high] <;> rfl

/-- The register access of DISABLE c: OCPE[c] and the REGW event, nothing else (R131, R136). -/
theorem disableStep_eq (c : Channel) (s : State) :
    disableStep c s =
      emit (.regw (ccmrOf c) (memRead (ccmrOf c) (s.setChan c { s.chan c with ocpe := false })))
        (s.setChan c { s.chan c with ocpe := false }) := by
  cases c with
  | ch1 =>
    simp only [disableStep, writeReg, ccmrOf, memRead, State.setChan, State.chan, (withModeByte_disable s.ch1 s.ch2).1]
    rw [memWrite_modeWord_low] <;> rfl
  | ch2 =>
    simp only [disableStep, writeReg, ccmrOf, memRead, State.setChan, State.chan, (withModeByte_disable s.ch1 s.ch2).2]
    rw [memWrite_modeWord_low] <;> rfl
  | ch3 =>
    have h := (withModeByte_disable s.ch3 s.ch4).1
    simp only [withPreload, fieldShift] at h
    simp only [disableStep, writeReg, ccmrOf, memRead, State.setChan, State.chan, withPreload, fieldShift, h]
    rw [memWrite_modeWord_high] <;> rfl
  | ch4 =>
    have h := (withModeByte_disable s.ch3 s.ch4).2
    simp only [withPreload, fieldShift] at h
    simp only [disableStep, writeReg, ccmrOf, memRead, State.setChan, State.chan, withPreload, fieldShift, h]
    rw [memWrite_modeWord_high] <;> rfl

/-- The four ENABLE_STEPs of NEW_PWM after the peripheral reset: every channel in PWM mode 1 and Enabled, and the four
register values of R99. -/
theorem enableAll_busSeq_eq (s : State) :
    enableAll (busSeq s) =
      { periphReset s with
        ch1 := { Chan.reset with ocm := 6, ocpe := true }, ch2 := { Chan.reset with ocm := 6, ocpe := true }
        ch3 := { Chan.reset with ocm := 6, ocpe := true }, ch4 := { Chan.reset with ocm := 6, ocpe := true }
        trace := s.trace ++
          [.busEnable, .busResetAssert, .busResetClear, .regw .ccmr1 0x0068, .regw .ccmr1 0x6868,
            .regw .ccmr2 0x0068, .regw .ccmr2 0x6868] } := by
  have h1 : modeWord { Chan.reset with ocm := 6, ocpe := true } Chan.reset = 0x0068 := by decide
  have h2 : modeWord { Chan.reset with ocm := 6, ocpe := true } { Chan.reset with ocm := 6, ocpe := true } = 0x6868 := by
    decide
  simp only [enableAll, enableStep_eq, busSeq_eq, ccmrOf, memRead, State.setChan, State.chan, emit, periphReset, h1, h2]
  simp

/-! ### Responses and admission -/

theorem respondOk_eq (v : Word) (s : State) : respondOk v s = .next (answer (.okay v) s) := rfl

theorem raise_eq (st : Status) (cause : BitVec 4) (s : State) :
    raise st cause s = .next (answer (.refusal st cause) s) := rfl

theorem admitIn_admitted {modes : List Owner} {s : State} (k : Result) (h : s.owner ≠ .unowned) (hm : s.owner ∈ modes) :
    admitIn modes s k = k := by
  rw [admitIn, if_neg h, if_pos hm]

theorem admitIn_unowned {modes : List Owner} {s : State} (k : Result) (h : s.owner = .unowned) :
    admitIn modes s k = .next (answer (.refusal .errNotOwned 0) s) := by
  rw [admitIn, if_pos h, raise_eq]

theorem admitIn_wrongMode {modes : List Owner} {s : State} (k : Result) (h : s.owner ≠ .unowned)
    (hm : s.owner ∉ modes) : admitIn modes s k = .next (answer (.refusal .errWrongMode 0) s) := by
  rw [admitIn, if_neg h, if_neg hm, raise_eq]

/-- Everything an admitted-or-refused command can answer. -/
theorem admitIn_next {modes : List Owner} {s t : State} {k : Result} (h : admitIn modes s k = .next t) :
    (s.owner = .unowned ∧ t = answer (.refusal .errNotOwned 0) s) ∨
    (s.owner ≠ .unowned ∧ s.owner ∈ modes ∧ k = .next t) ∨
    (s.owner ≠ .unowned ∧ s.owner ∉ modes ∧ t = answer (.refusal .errWrongMode 0) s) := by
  by_cases h0 : s.owner = .unowned
  · rw [admitIn_unowned k h0] at h
    exact .inl ⟨h0, (Host.Outcome.next.inj h).symm⟩
  · by_cases hm : s.owner ∈ modes
    · rw [admitIn_admitted k h0 hm] at h
      exact .inr (.inl ⟨h0, hm, h⟩)
    · rw [admitIn_wrongMode k h0 hm] at h
      exact .inr (.inr ⟨h0, hm, (Host.Outcome.next.inj h).symm⟩)

theorem onlyUnowned_next {s t : State} {k : Result} (h : onlyUnowned s k = .next t) :
    (s.owner = .unowned ∧ k = .next t) ∨
    (s.owner ≠ .unowned ∧ t = answer (.refusal .errAlreadyOwned 0) s) := by
  by_cases h0 : s.owner = .unowned
  · rw [onlyUnowned, if_pos h0] at h
    exact .inl ⟨h0, h⟩
  · rw [onlyUnowned, if_neg h0] at h
    exact .inr ⟨h0, (Host.Outcome.next.inj h).symm⟩

theorem withTiming_next {f clk : Word} {div : Byte} {s t : State} {k : BitVec 16 → BitVec 16 → Result}
    (h : withTiming f clk div s k = .next t) :
    (∃ psc arr, computeTiming f clk div = .pair psc arr ∧ k psc arr = .next t) ∨
    (∃ e, computeTiming f clk div = .refused e ∧ t = answer (.refusal e.status e.cause) s) := by
  unfold withTiming at h
  split at h
  · exact .inl ⟨_, _, by assumption, h⟩
  · exact .inr ⟨_, by assumption, (Host.Outcome.next.inj h).symm⟩

end Sys2Proof.Machine
end

