-- ==== Sys2Proof/Laws/Exec.lean ====
section
/-! SUPPORT. Everything a command can do, once: a command that answers a next state either refused, with nothing but
its response given, or had the one effect below and answered OK. Later proofs take it apart with `cases` and unfold
no meaning. -/

namespace Sys2Proof.Machine

/-- `t` is `s` after a response other than OK. -/
def Declined (s t : State) : Prop := ∃ st cause, st ≠ .ok ∧ t = answer (.refusal st cause) s

/-- `Effect i s u`: what a command answered with OK has made of the state `s`, its response not yet given. -/
inductive Effect : Instr → State → State → Prop where
  | compute {s : State} {f clk : Word} {div : Byte} {psc arr : BitVec 16} :
      computeTiming f clk div = .pair psc arr → Effect (.compute f clk div) s s
  | newTimer {s : State} {f clk : Word} {div : Byte} {psc arr : BitVec 16} :
      s.owner = .unowned → computeTiming f clk div = .pair psc arr →
      Effect (.newTimer f clk div) s
        { s with
          owner := .timer, snapClk := clk, snapDiv := div, freq := f, cen := true, uie := false, uif := false
          cnt := 0#32, psc := psc, arr := arr.setWidth 32
          ch1 := .reset, ch2 := .reset, ch3 := .reset, ch4 := .reset
          trace := s.trace ++
            [.busEnable, .busResetAssert, .busResetClear, .regw .cr 0#32, .regw .psc (psc.setWidth 32),
              .regw .arr (arr.setWidth 32), .regw .cnt 0#32, .regw .cr 1#32] }
  | newPwm {s : State} {f clk : Word} {div : Byte} {psc arr : BitVec 16} :
      s.owner = .unowned → computeTiming f clk div = .pair psc arr →
      Effect (.newPwm f clk div 0b1111) s
        { s with
          owner := .pwm, snapClk := clk, snapDiv := div, freq := f, cen := true, uie := false, uif := false
          cnt := 0#32, psc := psc, arr := arr.setWidth 32
          ch1 := ⟨0#32, 0#32, 6, true⟩, ch2 := ⟨0#32, 0#32, 6, true⟩
          ch3 := ⟨0#32, 0#32, 6, true⟩, ch4 := ⟨0#32, 0#32, 6, true⟩
          trace := s.trace ++
            [.busEnable, .busResetAssert, .busResetClear, .regw .ccmr1 0x0068, .regw .ccmr1 0x6868,
              .regw .ccmr2 0x0068, .regw .ccmr2 0x6868, .regw .cr 0#32, .regw .psc (psc.setWidth 32),
              .regw .arr (arr.setWidth 32), .regw .cnt 0#32, .regw .cr 1#32] }
  | free {s : State} : s.owner ≠ .unowned →
      Effect .free s { s with cen := false, owner := .unowned, trace := s.trace ++ [.regw .cr 0#32] }
  | start {s : State} {f : Word} {psc arr : BitVec 16} :
      s.owner = .timer → computeTiming f s.snapClk s.snapDiv = .pair psc arr →
      Effect (.start f) s
        { s with
          freq := f, cen := true, cnt := 0#32, psc := psc, arr := arr.setWidth 32
          trace := s.trace ++
            [.regw .cr 0#32, .regw .psc (psc.setWidth 32), .regw .arr (arr.setWidth 32), .regw .cnt 0#32,
              .regw .cr 1#32] }
  | setFreq {s : State} {f : Word} {psc arr : BitVec 16} :
      s.owner = .timer → computeTiming f s.snapClk s.snapDiv = .pair psc arr →
      Effect (.setFreq f) s
        { s with
          freq := f, psc := psc, arr := arr.setWidth 32
          trace := s.trace ++ [.regw .psc (psc.setWidth 32), .regw .arr (arr.setWidth 32)] }
  | setPeriod {s : State} {f : Word} {psc arr : BitVec 16} :
      s.owner = .pwm → computeTiming f s.snapClk s.snapDiv = .pair psc arr →
      Effect (.setPeriod f) s
        { s with
          freq := f, psc := psc, arr := arr.setWidth 32
          trace := s.trace ++ [.regw .psc (psc.setWidth 32), .regw .arr (arr.setWidth 32)] }
  | pause {s : State} : s.owner = .timer →
      Effect .pause s { s with cen := false, trace := s.trace ++ [.regw .cr 0#32] }
  | resume {s : State} : s.owner = .timer →
      Effect .resume s { s with cen := true, trace := s.trace ++ [.regw .cr 1#32] }
  | resetCounter {s : State} : s.owner = .timer →
      Effect .resetCounter s { s with cnt := 0#32, trace := s.trace ++ [.regw .cnt 0#32] }
  | counter {s : State} : s.owner = .timer → Effect .counter s s
  | wait {s : State} : s.owner = .timer → s.uif = true →
      Effect .wait s { s with uif := false, trace := s.trace ++ [.regw .sr 0#32] }
  | clearUif {s : State} : s.owner = .timer →
      Effect .clearUif s { s with uif := false, trace := s.trace ++ [.regw .sr 0#32] }
  | listen {s : State} : s.owner ≠ .unowned →
      Effect (.listen .update) s { s with uie := true, trace := s.trace ++ [.regw .ier 1#32] }
  | unlisten {s : State} : s.owner ≠ .unowned →
      Effect (.unlisten .update) s { s with uie := false, trace := s.trace ++ [.regw .ier 0#32] }
  | enable {s u : State} {c : Channel} : s.owner = .pwm →
      u = s.setChan c { s.chan c with ocm := 6, ocpe := true } →
      Effect (.enable c) s (emit (.regw (ccmrOf c) (memRead (ccmrOf c) u)) u)
  | disable {s u : State} {c : Channel} : s.owner = .pwm →
      u = s.setChan c { s.chan c with ocpe := false } →
      Effect (.disable c) s (activate c (emit (.regw (ccmrOf c) (memRead (ccmrOf c) u)) u))
  | getDuty {s : State} {c : Channel} : s.owner = .pwm → Effect (.getDuty c) s s
  | setDuty {s : State} {c : Channel} {v : Word} : s.owner = .pwm → v.toNat < 2 ^ s.cfg.width.bits →
      Effect (.setDuty c v) s
        (emit (.regw (.ccr c) v)
          (s.setChan c { s.chan c with ccr := v, ccra := if (s.chan c).ocpe then (s.chan c).ccra else v }))
  | getMaxDuty {s : State} : s.owner = .pwm → Effect .getMaxDuty s s
  | getPeriod {s : State} : s.owner = .pwm → Effect .getPeriod s s

/-! ### The three gates of a command -/

theorem declined_raise {st : Status} {cause : BitVec 4} {s t : State} (hst : st ≠ .ok)
    (h : raise st cause s = .next t) : Declined s t :=
  ⟨st, cause, hst, (Host.Outcome.next.inj h).symm⟩

theorem admitIn_cases {modes : List Owner} {s t : State} {k : Result} {P : Prop} (h : admitIn modes s k = .next t)
    (hk : s.owner ≠ .unowned → s.owner ∈ modes → k = .next t → Declined s t ∨ P) : Declined s t ∨ P := by
  rcases admitIn_next h with ⟨-, rfl⟩ | ⟨h1, h2, h3⟩ | ⟨-, -, rfl⟩
  · exact .inl ⟨_, _, by decide, rfl⟩
  · exact hk h1 h2 h3
  · exact .inl ⟨_, _, by decide, rfl⟩

theorem onlyUnowned_cases {s t : State} {k : Result} {P : Prop} (h : onlyUnowned s k = .next t)
    (hk : s.owner = .unowned → k = .next t → Declined s t ∨ P) : Declined s t ∨ P := by
  rcases onlyUnowned_next h with ⟨h1, h2⟩ | ⟨-, rfl⟩
  · exact hk h1 h2
  · exact .inl ⟨_, _, by decide, rfl⟩

theorem withTiming_cases {f clk : Word} {div : Byte} {s t : State} {k : BitVec 16 → BitVec 16 → Result} {P : Prop}
    (h : withTiming f clk div s k = .next t)
    (hk : ∀ psc arr, computeTiming f clk div = .pair psc arr → k psc arr = .next t → P) : Declined s t ∨ P := by
  rcases withTiming_next h with ⟨psc, arr, h1, h2⟩ | ⟨e, -, rfl⟩
  · exact .inr (hk psc arr h1 h2)
  · exact .inl ⟨_, _, by cases e <;> decide, rfl⟩

/-- What an answered OK leaves. -/
theorem respondOk_next {v : Word} {s t : State} (h : respondOk v s = .next t) : t = answer (.okay v) s :=
  (Host.Outcome.next.inj h).symm

theorem pinsValid_iff (pv : BitVec 4) : pinsValid pv = true ↔ pv = 0b1111 := by
  revert pv
  decide

theorem writeDuty_eq {c : Channel} {v : Word} {s : State} (h : v.toNat < 2 ^ s.cfg.width.bits) :
    writeDuty c v s =
      emit (.regw (.ccr c) v)
        (s.setChan c { s.chan c with ccr := v, ccra := if (s.chan c).ocpe then (s.chan c).ccra else v }) := by
  unfold writeDuty
  split
  · rw [writeReg_ccr _ h]
  · rw [writeReg_ccr _ h]
    cases c <;> rfl

/-! ### The commands -/

/-- Everything a command that answers a next state can have done. -/
theorem exec_next {i : Instr} {s t : State} (h : exec i s = .next t) :
    Declined s t ∨ ∃ u v, Effect i s u ∧ t = answer (.okay v) u := by
  cases i with
  | compute f clk div => exact withTiming_cases h fun _ _ hp h => ⟨_, _, .compute hp, respondOk_next h⟩
  | newTimer f clk div =>
    refine onlyUnowned_cases h fun ho h => withTiming_cases h fun _ _ hp h => ⟨_, 0, .newTimer ho hp, ?_⟩
    rw [respondOk_next h, startSeq_eq, busSeq_eq]
    simp [acquire, periphReset]
  | newPwm f clk div pv =>
    refine onlyUnowned_cases h fun ho h => ?_
    split at h
    · split at h
      · rename_i hv
        obtain rfl := (pinsValid_iff pv).1 hv
        refine withTiming_cases (by assumption) fun _ _ hp h => ⟨_, 0, .newPwm ho hp, ?_⟩
        rw [respondOk_next h, startSeq_eq, enableAll_busSeq_eq]
        simp [acquire, periphReset, Chan.reset]
      · exact .inl (declined_raise (by decide) h)
    · exact .inl (declined_raise (by decide) h)
  | free =>
    exact admitIn_cases h fun ho _ h => .inr ⟨_, _, .free ho, by rw [respondOk_next h, writeReg_cr]; rfl⟩
  | start f =>
    refine admitIn_cases h fun _ hm h => withTiming_cases h fun _ _ hp h => ⟨_, 0, .start (by simpa using hm) hp, ?_⟩
    rw [respondOk_next h, startSeq_eq]
    rfl
  | setFreq f =>
    refine admitIn_cases h fun _ hm h => withTiming_cases h fun _ _ hp h => ⟨_, 0, .setFreq (by simpa using hm) hp, ?_⟩
    rw [respondOk_next h, reprogram_eq]
    rfl
  | pause =>
    exact admitIn_cases h fun _ hm h =>
      .inr ⟨_, _, .pause (by simpa using hm), by rw [respondOk_next h, writeReg_cr]; rfl⟩
  | resume =>
    exact admitIn_cases h fun _ hm h =>
      .inr ⟨_, _, .resume (by simpa using hm), by rw [respondOk_next h, writeReg_cr]; rfl⟩
  | resetCounter =>
    exact admitIn_cases h fun _ hm h =>
      .inr ⟨_, _, .resetCounter (by simpa using hm), (respondOk_next h).trans (congrArg _ (writeReg_cnt_zero s))⟩
  | counter =>
    exact admitIn_cases h fun _ hm h => .inr ⟨_, _, .counter (by simpa using hm), respondOk_next h⟩
  | wait =>
    refine admitIn_cases h fun _ hm h => ?_
    split at h
    · exact .inr ⟨_, _, .wait (by simpa using hm) ‹_›, by rw [respondOk_next h, writeReg_sr]; rfl⟩
    · exact .inl (declined_raise (by decide) h)
  | clearUif =>
    exact admitIn_cases h fun _ hm h =>
      .inr ⟨_, _, .clearUif (by simpa using hm), by rw [respondOk_next h, writeReg_sr]; rfl⟩
  | listen ev =>
    cases ev
    exact admitIn_cases h fun ho _ h => .inr ⟨_, _, .listen ho, by rw [respondOk_next h, writeReg_ier]; rfl⟩
  | unlisten ev =>
    cases ev
    exact admitIn_cases h fun ho _ h => .inr ⟨_, _, .unlisten ho, by rw [respondOk_next h, writeReg_ier]; rfl⟩
  | enable c =>
    exact admitIn_cases h fun _ hm h =>
      .inr ⟨_, _, .enable (by simpa using hm) rfl, by rw [respondOk_next h, enableStep_eq]⟩
  | disable c =>
    exact admitIn_cases h fun _ hm h =>
      .inr ⟨_, _, .disable (by simpa using hm) rfl, by rw [respondOk_next h, disableStep_eq]⟩
  | getDuty c =>
    exact admitIn_cases h fun _ hm h => .inr ⟨_, _, .getDuty (by simpa using hm), respondOk_next h⟩
  | setDuty c v =>
    refine admitIn_cases h fun _ hm h => ?_
    split at h
    · have hv : v.toNat < 2 ^ s.cfg.width.bits := by simpa [dutyFits] using ‹dutyFits s.cfg.width v = true›
      exact .inr ⟨_, _, .setDuty (by simpa using hm) hv, by rw [respondOk_next h, writeDuty_eq hv]⟩
    · exact .inl (declined_raise (by decide) h)
  | getMaxDuty =>
    exact admitIn_cases h fun _ hm h => .inr ⟨_, _, .getMaxDuty (by simpa using hm), respondOk_next h⟩
  | setPeriod f =>
    refine admitIn_cases h fun _ hm h =>
      withTiming_cases h fun _ _ hp h => ⟨_, 0, .setPeriod (by simpa using hm) hp, ?_⟩
    rw [respondOk_next h, reprogram_eq]
    rfl
  | getPeriod =>
    exact admitIn_cases h fun _ hm h => .inr ⟨_, _, .getPeriod (by simpa using hm), respondOk_next h⟩

end Sys2Proof.Machine
end

