-- ==== Sys2Proof/Laws/PerInstr.lean ====
section
/-! SUPPORT. One lemma per command for the families LAWS.json names. -/

namespace Sys2Proof.Laws.FieldRoundTrip

/-- The fields a command is encoded with are decoded to that command (spec/30_encoding.md R57, R62, R63). -/
def Statement (i : Instr) : Prop := decodeFields (encodeFields i) = .command i

theorem compute (f clk : Word) (div : Byte) : Statement (.compute f clk div) := rfl
theorem newTimer (f clk : Word) (div : Byte) : Statement (.newTimer f clk div) := rfl
theorem newPwm (f clk : Word) (div : Byte) (pv : BitVec 4) : Statement (.newPwm f clk div pv) := rfl
theorem free : Statement (.free) := rfl
theorem start (f : Word) : Statement (.start f) := rfl
theorem setFreq (f : Word) : Statement (.setFreq f) := rfl
theorem pause : Statement (.pause) := rfl
theorem resume : Statement (.resume) := rfl
theorem resetCounter : Statement (.resetCounter) := rfl
theorem counter : Statement (.counter) := rfl
theorem wait : Statement (.wait) := rfl
theorem clearUif : Statement (.clearUif) := rfl
theorem listen (ev : Event) : Statement (.listen ev) := by cases ev; rfl
theorem unlisten (ev : Event) : Statement (.unlisten ev) := by cases ev; rfl
theorem enable (c : Channel) : Statement (.enable c) := by cases c <;> rfl
theorem disable (c : Channel) : Statement (.disable c) := by cases c <;> rfl
theorem getDuty (c : Channel) : Statement (.getDuty c) := by cases c <;> rfl
theorem setDuty (c : Channel) (v : Word) : Statement (.setDuty c v) := by cases c <;> rfl
theorem getMaxDuty : Statement (.getMaxDuty) := rfl
theorem setPeriod (f : Word) : Statement (.setPeriod f) := rfl
theorem getPeriod : Statement (.getPeriod) := rfl

end Sys2Proof.Laws.FieldRoundTrip
end

