-- ==== Sys2Proof/Laws/Tick.lean ====
section
/-! SUPPORT. What a turn of the TICK agent does, once (spec/44_counter_tick.md R150 to R155). -/

namespace Sys2Proof.Machine

@[simp] theorem transfer_ccr (x : Chan) : (transfer x).ccr = x.ccr := by unfold transfer; split <;> rfl
@[simp] theorem transfer_ocm (x : Chan) : (transfer x).ocm = x.ocm := by unfold transfer; split <;> rfl
@[simp] theorem transfer_ocpe (x : Chan) : (transfer x).ocpe = x.ocpe := by unfold transfer; split <;> rfl
@[simp] theorem transfer_ccra (x : Chan) : (transfer x).ccra = if x.ocpe then x.ccr else x.ccra := by
  unfold transfer
  split <;> rfl

theorem rollover_eq (s : State) :
    rollover s =
      { s with
        cnt := 0, uif := true
        ch1 := transfer s.ch1, ch2 := transfer s.ch2, ch3 := transfer s.ch3, ch4 := transfer s.ch4 } := by
  simp [rollover, memWrite, updateEvent]

theorem countUp_eq {s : State} (h : (s.cnt + 1).toNat < 2 ^ s.cfg.width.bits) :
    countUp s = { s with cnt := s.cnt + 1 } := by
  simp only [countUp, memWrite, truncW_of_fits h]

theorem tick_disabled {s : State} (h : s.cen = false ∨ s.undef = true) : tick s = s := by
  have : tickEnabled s = false := by rcases h with h | h <;> simp [tickEnabled, h]
  simp [tick, this]

theorem tick_enabled {s : State} (hc : s.cen = true) (hu : s.undef = false) : tick s = count s := by
  simp [tick, tickEnabled, hc, hu]

theorem count_below {s : State} (h : s.cnt.toNat + 1 < s.arr.toNat) : count s = countUp s := by
  rw [count, if_pos h]

theorem count_boundary {s : State} (h : s.cnt.toNat + 1 = s.arr.toNat) : count s = rollover s := by
  rw [count, if_neg (by omega), if_pos h]

theorem count_overrun {s : State} (h : s.arr.toNat ≤ s.cnt.toNat) : count s = tickOverrun s := by
  rw [count, if_neg (by omega), if_neg (by omega)]

/-- Everything a turn of the TICK agent can do. -/
theorem tick_cases (s : State) :
    tick s = s ∨ (s.cen = true ∧ s.undef = false ∧
      ((s.cnt.toNat + 1 < s.arr.toNat ∧ tick s = countUp s) ∨
       (s.cnt.toNat + 1 = s.arr.toNat ∧ tick s = rollover s) ∨
       (s.arr.toNat ≤ s.cnt.toNat ∧
         ((s.cfg.overrun = .fault ∧ tick s = { s with undef := true }) ∨
          (s.cfg.overrun ≠ .fault ∧ tick s = rollover s) ∨
          (s.cfg.overrun = .countToMax ∧ s.cnt.toNat ≠ 2 ^ s.cfg.width.bits - 1 ∧ tick s = countUp s))))) := by
  by_cases he : s.cen = true ∧ s.undef = false
  · obtain ⟨hc, hu⟩ := he
    refine .inr ⟨hc, hu, ?_⟩
    rw [tick_enabled hc hu]
    rcases Nat.lt_trichotomy (s.cnt.toNat + 1) s.arr.toNat with h | h | h
    · exact .inl ⟨h, count_below h⟩
    · exact .inr (.inl ⟨h, count_boundary h⟩)
    · have h : s.arr.toNat ≤ s.cnt.toNat := by omega
      refine .inr (.inr ⟨h, ?_⟩)
      rw [count_overrun h]
      unfold tickOverrun
      cases ho : s.cfg.overrun with
      | fault => simp
      | wrapNow => simp
      | countToMax =>
        dsimp only
        split
        · simp
        · simp [*]
  · refine .inl (tick_disabled ?_)
    cases hc : s.cen <;> cases hu : s.undef <;> simp_all

end Sys2Proof.Machine
end

