-- ==== Sys2Proof/Laws/Step.lean ====
section
/-! SUPPORT. What a step does, once: each of the three agents, and runs of several steps. -/

namespace Sys2Proof.Machine

theorem step_host {s : State} (h : turn s = .host) : step s = hostTurn (endTurn s) := by simp [step, h]

theorem step_tick {s : State} (h : turn s = .tick) : step s = .next (tick (endTurn s)) := by simp [step, h]

theorem step_rst {s : State} (h : turn s = .rst) : step s = .next (blockReset (endTurn s)) := by simp [step, h]

theorem turn_of_sched {s : State} {a : Agent} {rest : List Agent} (h : s.sched = a :: rest) : turn s = a := by
  simp [turn, h]

theorem hostTurn_undef {s : State} (h : s.undef = true) : hostTurn s = .fault .blockUndefined := by
  simp [hostTurn, h]

theorem hostTurn_waits {s : State} (hu : s.undef = false) (h : takeCommand s.port = none) : hostTurn s = .next s := by
  simp [hostTurn, hu, h]

theorem hostTurn_word {s : State} {w : CommandWord} {rest : List Byte} (hu : s.undef = false)
    (h : takeCommand s.port = some (w, rest)) : hostTurn s = execWord w (consume rest s) := by
  simp [hostTurn, hu, h]

theorem execWord_command {w : CommandWord} {i : Instr} (s : State) (h : decodeWord w = .command i) :
    execWord w s = exec i s := by
  simp [execWord, h]

theorem execWord_rejected {w : CommandWord} {e : DecodeError} (s : State) (h : decodeWord w = .rejected e) :
    execWord w s = .next (answer (.refusal .errIllegalEncoding 0) s) := by
  simp [execWord, h, answerIllegal, raise_eq]

/-- Everything a step that answers a next state can have been. -/
theorem step_next {s t : State} (h : step s = .next t) :
    (turn s = .rst ∧ t = blockReset (endTurn s)) ∨
    (turn s = .tick ∧ t = tick (endTurn s)) ∨
    (turn s = .host ∧ s.undef = false ∧
      ((takeCommand s.port = none ∧ t = endTurn s) ∨
       (∃ w rest, takeCommand s.port = some (w, rest) ∧
         ((∃ e, decodeWord w = .rejected e ∧
            t = answer (.refusal .errIllegalEncoding 0) (consume rest (endTurn s))) ∨
          (∃ i, decodeWord w = .command i ∧ exec i (consume rest (endTurn s)) = .next t))))) := by
  cases ht : turn s with
  | rst => rw [step_rst ht] at h; exact .inl ⟨rfl, (Host.Outcome.next.inj h).symm⟩
  | tick => rw [step_tick ht] at h; exact .inr (.inl ⟨rfl, (Host.Outcome.next.inj h).symm⟩)
  | host =>
    rw [step_host ht] at h
    refine .inr (.inr ⟨rfl, ?_⟩)
    by_cases hu : (endTurn s).undef = true
    · rw [hostTurn_undef hu] at h
      cases h
    · have hu : (endTurn s).undef = false := by simpa using hu
      refine ⟨by simpa using hu, ?_⟩
      cases hp : takeCommand s.port with
      | none =>
        rw [hostTurn_waits hu (by simpa using hp)] at h
        exact .inl ⟨rfl, (Host.Outcome.next.inj h).symm⟩
      | some wr =>
        obtain ⟨w, rest⟩ := wr
        rw [hostTurn_word hu (w := w) (rest := rest) (by simpa using hp)] at h
        refine .inr ⟨w, rest, rfl, ?_⟩
        cases hd : decodeWord w with
        | command i => exact .inr ⟨i, rfl, by rwa [execWord_command _ hd] at h⟩
        | rejected e =>
          rw [execWord_rejected _ hd] at h
          exact .inl ⟨e, rfl, (Host.Outcome.next.inj h).symm⟩

/-- A run of k + 1 steps is one step and then k. -/
theorem run_succ {k : Nat} {s t : State} (h : step s = .next t) :
    Host.Core.run Sys2Proof.core (k + 1) s = Host.Core.run Sys2Proof.core k t := by
  have h : Sys2Proof.core.step s = .next t := h
  have e := Host.Core.run.eq_2 Sys2Proof.core s k
  rw [h] at e
  exact e

/-- A run that answers a next state took a first step that did. -/
theorem run_succ_next {k : Nat} {s u : State} (h : Host.Core.run Sys2Proof.core (k + 1) s = .next u) :
    ∃ t, step s = .next t ∧ Host.Core.run Sys2Proof.core k t = .next u := by
  have e := (Host.Core.run.eq_2 Sys2Proof.core s k).symm.trans h
  split at e
  · rename_i t hs
    exact ⟨t, hs, e⟩
  · cases e
  · cases e

end Sys2Proof.Machine
end

