-- ==== Sys2Proof/Tests/Slice0.lean ====
section
/-! SUPPORT. The model's own tests. Every expected value is one of the spec's: the vectors of
spec/95_test_vectors.md, named by their ids (K2, T16, W6, P2 ...), and the words of spec/30_encoding.md R68. Each is
about one instruction or one step on a small state. The last part shows, for each statement with hypotheses, concrete
values that meet them, at the ends of each clause's range. -/

namespace Sys2Proof.Tests

open Sys2Proof.Machine Sys2Proof.Claims

/-! ### Small states -/

/-- The state of program P1 after step 1, with a count and a flag of one's own: NEW_TIMER 2000000, 8000000, 1. -/
def timerAt (cnt : Word) (uif : Bool) : State :=
  { State.reset with
    owner := .timer, snapClk := 8000000, snapDiv := 1, freq := 2000000, cen := true, psc := 0, arr := 4, cnt := cnt
    uif := uif }

/-- The state of program P2 after step 1, with the four channels of one's own: NEW_PWM 1000000, 8000000, 1, 0b1111. -/
def pwmWith (a b c d : Chan) : State :=
  { State.reset with
    owner := .pwm, snapClk := 8000000, snapDiv := 1, freq := 1000000, cen := true, psc := 0, arr := 8
    ch1 := a, ch2 := b, ch3 := c, ch4 := d }

/-- A channel in PWM mode 1 with a duty, Enabled or Disabled. -/
def onDuty (ccr ccra : Word) (ocpe : Bool) : Chan := ⟨ccr, ccra, 6, ocpe⟩

/-- The state of program P2 after step 1. -/
def pwmFresh : State := pwmWith (onDuty 0 0 true) (onDuty 0 0 true) (onDuty 0 0 true) (onDuty 0 0 true)

/-- The next state, if there is one. -/
def nextOf (r : Result) : Option State :=
  match r with
  | .next t => some t
  | .fault _ => none
  | .refused _ => none

/-- The last response word a command gives (R60). -/
def reply (i : Instr) (s : State) : Option ResponseWord :=
  (nextOf (exec i s)).bind fun t => t.responses.getLast?.map Response.word

/-- The events a command adds, as (index, value) pairs of REGW; a BUSCTL call shows as index 99. -/
def writes (i : Instr) (s : State) : Option (List (Nat × Nat)) :=
  (nextOf (exec i s)).map fun t => (t.trace.drop s.trace.length).map fun
    | .regw r v => (r.index, v.toNat)
    | _ => (99, 0)

/-- One view of the state a command leaves. -/
def look {α : Type} (view : State → α) (i : Instr) (s : State) : Option α := (nextOf (exec i s)).map view

/-! ### Words that are no commands (spec/30_encoding.md R63, R65) -/

/-- E1, E2, E3, E4: reserved opcodes are in no row of the table. -/
theorem test_wellFormed_refuses_reserved_opcode :
    inTable 0x00 = false ∧ inTable 0x0F = false ∧ inTable 0x17 = false ∧ inTable 0x1F = false ∧
      WellFormed 0x0F = false := by decide

/-- E6, E8, E18, E24: a nonzero must-be-zero field puts a word in no row. -/
theorem test_wellFormed_refuses_nonzero_field :
    inTable 0x00000000_00000001_0000000B = false ∧ inTable 0x00000000_00000000_000000F0 = false ∧
      inTable 0x007A1200_000003E8_000F0102 = false ∧ inTable 0x00000000_00000000_00100007 = false := by decide

/-- E14, E15: EV = 1 is in the row of LISTEN, and only the second check refuses it. -/
theorem test_wellFormed_refuses_reserved_event :
    inTable 0x8D = true ∧ eventLegal 0x8D = false ∧ WellFormed 0x8D = false ∧ eventLegal 0x8E = false := by decide

/-- E1 to E24, each rejected by the name of what is wrong. -/
theorem test_decode_rejects_reserved_opcodes :
    [0x00, 0x0F, 0x17, 0x1F].map decodeWord = List.replicate 4 (.rejected .reservedOpcode) := by decide

theorem test_decode_rejects_nonzero_fields :
    [0x2B, 0x00000000_00000001_0000000B, 0x00000001_00000000_0000000A, 0xF0, 0x00000000_00000001_00000070,
      0x00000001_00000001_00000013, 0x00000000_00000001_00000113, 0x00000000_000003E8_00000025, 0x2D].map decodeWord =
      List.replicate 9 (.rejected .mustBeZero) := by decide

theorem test_decode_rejects_more_nonzero_fields :
    [0x007A1200_000003E8_00010101, 0x007A1200_000003E8_00000121, 0x007A1200_000003E8_000F0102,
      0x007A1200_000003E8_001F0103, 0x007A1200_000003E8_800F0103, 0x007A1200_000003E8_000F0183, 0x00010004,
      0x00000000_00000005_00000016, 0x00100007].map decodeWord = List.replicate 9 (.rejected .mustBeZero) := by decide

theorem test_decode_rejects_reserved_event :
    [0x8D, 0x8E].map decodeWord = List.replicate 2 (.rejected .reservedEvent) := by decide

/-- No word belongs to two rows: the rows' masks all fix the opcode, and no two patterns share one (R62). -/
theorem test_table_rows_disjoint :
    opcodeTable.Pairwise (fun a b => a.pattern &&& 0x1F ≠ b.pattern &&& 0x1F) ∧
      opcodeTable.all (fun r => r.mask &&& 0x1F == 0x1F) = true ∧ opcodeTable.length = 21 := by decide

/-! ### One word of each command, written out by the spec (R68, 95_test_vectors.md) -/

theorem test_decode_calculator_and_lifecycle :
    decodeTableWord 96 0x044AA200_00000032_00000201 = some (.compute 50 72000000 2) ∧
    decodeTableWord 96 0x007A1200_000003E8_00000102 = some (.newTimer 1000 8000000 1) ∧
    decodeTableWord 96 0x007A1200_000003E8_00070103 = some (.newPwm 1000 8000000 1 0b0111) ∧
    decodeTableWord 96 0x00000000_00000000_00000004 = some .free := by decide

theorem test_decode_timer_commands :
    decodeTableWord 96 0x00000000_003D0900_00000005 = some (.start 4000000) ∧
    decodeTableWord 96 0x00000000_001E8480_00000006 = some (.setFreq 2000000) ∧
    decodeTableWord 96 0x00000000_00000000_00000007 = some .pause ∧
    decodeTableWord 96 0x00000000_00000000_00000008 = some .resume ∧
    decodeTableWord 96 0x00000000_00000000_00000009 = some .resetCounter ∧
    decodeTableWord 96 0x00000000_00000000_0000000A = some .counter ∧
    decodeTableWord 96 0x00000000_00000000_0000000B = some .wait ∧
    decodeTableWord 96 0x00000000_00000000_0000000C = some .clearUif ∧
    decodeTableWord 96 0x00000000_00000000_0000000D = some (.listen .update) ∧
    decodeTableWord 96 0x00000000_00000000_0000000E = some (.unlisten .update) := by decide

theorem test_decode_pwm_commands :
    [0x10, 0x30, 0x50, 0x70].map (decodeTableWord 96) = [.ch1, .ch2, .ch3, .ch4].map (fun c => some (.enable c)) ∧
    [0x11, 0x31, 0x51, 0x71].map (decodeTableWord 96) = [.ch1, .ch2, .ch3, .ch4].map (fun c => some (.disable c)) ∧
    [0x12, 0x32, 0x52, 0x72].map (decodeTableWord 96) = [.ch1, .ch2, .ch3, .ch4].map (fun c => some (.getDuty c)) ∧
    decodeTableWord 96 0x00000000_00000FA0_00000013 = some (.setDuty .ch1 4000) ∧
    decodeTableWord 96 0x00000000_0000FFFF_00000073 = some (.setDuty .ch4 65535) ∧
    decodeTableWord 96 0x00000000_00000000_00000014 = some .getMaxDuty ∧
    decodeTableWord 96 0x00000000_001E8480_00000015 = some (.setPeriod 2000000) ∧
    decodeTableWord 96 0x00000000_00000000_00000016 = some .getPeriod := by decide

/-- R41: the low byte of W0 is first on the wire. -/
theorem test_commandBytes_order :
    commandBytes 0x007A1200_000003E8_000F0103 =
      [0x03, 0x01, 0x0F, 0x00, 0xE8, 0x03, 0x00, 0x00, 0x00, 0x12, 0x7A, 0x00] := by decide

/-! ### The calculator -/

/-- K1, K2, K3, K8, K11, K13, K28. -/
theorem test_compute_values :
    [reply (.compute 1000 8000000 1) State.reset, reply (.compute 50 72000000 2) State.reset,
      reply (.compute 8000000 8000000 1) State.reset, reply (.compute 1 65537 1) State.reset,
      reply (.compute 1 4294967295 1) State.reset, reply (.compute 2 4294967295 2) State.reset,
      reply (.compute 7 36000000 2) State.reset] =
    [some 0x1F400000_00000000, some 0xFFAE002B_00000000, some 0x00010000_00000000, some 0x80000001_00000000,
      some 0xFFFFFFFF_00000000, some 0xFFFFFFFF_00000000, some 0xFFEA009C_00000000] := by decide

/-- K4, K5, K7, K12, K14, K15, K20, K21, K34. -/
theorem test_compute_refusals :
    [reply (.compute 8000001 8000000 1) State.reset, reply (.compute 0 8000000 1) State.reset,
      reply (.compute 1 65536 1) State.reset, reply (.compute 1 4294967295 2) State.reset,
      reply (.compute 1 2147483648 2) State.reset, reply (.compute 1 4294901760 1) State.reset,
      reply (.compute 1000 8000000 0) State.reset, reply (.compute 0 8000000 0) State.reset,
      reply (.compute 1 0 1) State.reset] =
    [some 0x22, some 0x12, some 0x42, some 0x32, some 0x42, some 0x42, some 0x07, some 0x07, some 0x22] := by decide

/-! ### Acquisition and release -/

/-- L1. -/
theorem test_newTimer_state :
    look (fun t => (t.owner, t.snapClk.toNat, t.snapDiv.toNat, t.freq.toNat)) (.newTimer 1000 8000000 1) State.reset =
      some (.timer, 8000000, 1, 1000) ∧
    look (fun t => (t.cen, t.psc.toNat, t.arr.toNat)) (.newTimer 1000 8000000 1) State.reset = some (true, 0, 8000) ∧
    writes (.newTimer 1000 8000000 1) State.reset =
      some [(99, 0), (99, 0), (99, 0), (0, 0), (6, 0), (7, 8000), (5, 0), (0, 1)] := by decide

/-- A4: the order of the checks. -/
theorem test_newTimer_refusals :
    reply (.newTimer 1000 8000000 1) (timerAt 0 false) = some 0x04 ∧
    reply (.newTimer 1 65536 1) State.reset = some 0x42 ∧
    reply (.newTimer 1000 8000000 0) State.reset = some 0x07 := by decide

/-- L2. -/
theorem test_newPwm_state :
    look (fun t => (t.owner, t.arr.toNat, (memRead .ccmr1 t).toNat, (memRead .ccmr2 t).toNat, out .ch3 t))
      (.newPwm 1000 8000000 1 0b1111) State.reset = some (.pwm, 8000, 0x6868, 0x6868, some false) ∧
    writes (.newPwm 1000 8000000 1 0b1111) State.reset =
      some [(99, 0), (99, 0), (99, 0), (3, 0x0068), (3, 0x6868), (4, 0x0068), (4, 0x6868), (0, 0), (6, 0), (7, 8000),
        (5, 0), (0, 1)] := by decide

/-- A4: the order of the checks. -/
theorem test_newPwm_refusals :
    reply (.newPwm 0 8000000 0 0b0111) (timerAt 0 false) = some 0x04 ∧
    reply (.newPwm 1000 8000000 0 0b0111) State.reset = some 0x07 ∧
    reply (.newPwm 0 8000000 1 0b0111) State.reset = some 0x08 ∧
    reply (.newPwm 0 8000000 1 0b1111) State.reset = some 0x12 ∧
    reply (.newPwm 1000 8000000 1 0b0000) State.reset = some 0x08 := by decide

/-- L3: FREE keeps the duty and the channel modes. -/
theorem test_free :
    look (fun t => (t.owner, t.cen, t.ch1.ccr.toNat, (memRead .ccmr1 t).toNat, t.arr.toNat)) .free
      (pwmWith (onDuty 4000 0 true) (onDuty 0 0 true) (onDuty 0 0 true) (onDuty 0 0 true)) =
      some (.unowned, false, 4000, 0x6868, 8) ∧
    reply .free State.reset = some 0x03 := by decide

/-! ### The Periodic Timer -/

/-- T2 and T4: UIF stays. -/
theorem test_start :
    look (fun t => (t.psc.toNat, t.arr.toNat, t.cnt.toNat, t.cen, t.freq.toNat, t.uif)) (.start 4000000)
      (timerAt 3 true) = some (0, 2, 0, true, 4000000, true) ∧
    writes (.start 4000000) (timerAt 3 true) = some [(0, 0), (6, 0), (7, 2), (5, 0), (0, 1)] := by decide

/-- T5, T6, A1, A3. -/
theorem test_start_refusals :
    reply (.start 0) (timerAt 0 false) = some 0x12 ∧ reply (.start 8000001) (timerAt 0 false) = some 0x22 ∧
    reply (.start 1000) State.reset = some 0x03 ∧ reply (.start 1000) pwmFresh = some 0x05 := by decide

/-- T12: CEN and CNT stay; P4 step 3: the count may be left at or above ARR. -/
theorem test_setFreq :
    look (fun t => (t.arr.toNat, t.freq.toNat, t.cen, t.cnt.toNat)) (.setFreq 1000)
      { timerAt 0 false with cen := false } = some (8000, 1000, false, 0) ∧
    look (fun t => (t.arr.toNat, t.cnt.toNat)) (.setFreq 2000000) (timerAt 6 false) = some (4, 6) ∧
    writes (.setFreq 4000000) (timerAt 0 false) = some [(6, 0), (7, 2)] := by decide

/-- T8, T9: the write is made even when it changes nothing. -/
theorem test_pause :
    look (fun t => t.cen) .pause (timerAt 1 false) = some false ∧
    writes .pause { timerAt 1 false with cen := false } = some [(0, 0)] := by decide

/-- T13. -/
theorem test_resume :
    look (fun t => t.cen) .resume { timerAt 1 false with cen := false } = some true ∧
    writes .resume (timerAt 1 false) = some [(0, 1)] := by decide

/-- T16: no update event. -/
theorem test_resetCounter :
    look (fun t => (t.cnt.toNat, t.uif)) .resetCounter (timerAt 3 false) = some (0, false) ∧
    writes .resetCounter (timerAt 3 false) = some [(5, 0)] := by decide

/-- P1 step 13, P1 step 19. -/
theorem test_counter :
    reply .counter (timerAt 2 false) = some 0x00000002_00000000 ∧ reply .counter State.reset = some 0x03 ∧
    writes .counter (timerAt 2 false) = some [] := by decide

/-- P1 steps 3, 5: WOULD_BLOCK, then OK and UIF = 0. -/
theorem test_wait :
    reply .wait (timerAt 3 false) = some 0x01 ∧ reply .wait (timerAt 0 true) = some 0x00 ∧
    look (fun t => t.uif) .wait (timerAt 0 true) = some false ∧ writes .wait (timerAt 3 false) = some [] := by decide

/-- P1 step 10, T22. -/
theorem test_clearUif :
    look (fun t => t.uif) .clearUif (timerAt 0 true) = some false ∧
    writes .clearUif (timerAt 0 false) = some [(2, 0)] := by decide

/-- P2 step 17: the line rises at once when the flag is already set. -/
theorem test_listen :
    look (fun t => (t.uie, irq t)) (.listen .update) { pwmFresh with uif := true } = some (true, true) ∧
    writes (.listen .update) (timerAt 0 false) = some [(1, 1)] := by decide

/-- T24, P1 step 17. -/
theorem test_unlisten :
    look (fun t => (t.uie, irq t)) (.unlisten .update) { timerAt 0 true with uie := true } = some (false, false) ∧
    writes (.unlisten .update) (timerAt 0 false) = some [(1, 0)] := by decide

/-! ### The PWM Controller -/

/-- The state of run W after W8: channels 3 and 4 Disabled, CCMR2 = 0x6060. -/
def afterW8 : State := pwmWith (onDuty 5 5 true) (onDuty 0 0 true) (onDuty 0 0 false) (onDuty 2 2 false)

/-- W9: channel 4 stays Disabled. -/
theorem test_enable :
    look (fun t => (t.ch3.ocpe, t.ch4.ocpe, (memRead .ccmr2 t).toNat)) (.enable .ch3) afterW8 =
      some (true, false, 0x6068) ∧ writes (.enable .ch3) afterW8 = some [(4, 0x6068)] := by decide

/-- W6: CCRA takes the written duty at once and the output rises. -/
theorem test_disable :
    look (fun t => (t.ch4.ccra.toNat, t.ch4.ocm.toNat, out .ch4 t)) (.disable .ch4)
      (pwmWith (onDuty 0 0 true) (onDuty 0 0 true) (onDuty 0 0 true) (onDuty 2 0 true)) = some (2, 6, some true) ∧
    writes (.disable .ch4) (pwmWith (onDuty 0 0 true) (onDuty 0 0 true) (onDuty 0 0 true) (onDuty 2 0 true)) =
      some [(4, 0x6068)] := by decide

/-- P2 step 15: the written value, not the one in effect. -/
theorem test_getDuty :
    reply (.getDuty .ch2) (pwmWith (onDuty 4 4 true) (onDuty 0 6 true) (onDuty 9 9 true) (onDuty 0 0 true)) =
      some 0x00 ∧
    reply (.getDuty .ch3) (pwmWith (onDuty 4 4 true) (onDuty 0 6 true) (onDuty 9 9 true) (onDuty 0 0 true)) =
      some 0x00000009_00000000 := by decide

/-- W2 and P2 step 8: an Enabled channel waits for the rollover, a Disabled one does not. -/
theorem test_setDuty :
    look (fun t => (t.ch1.ccr.toNat, t.ch1.ccra.toNat)) (.setDuty .ch1 3) pwmFresh = some (3, 0) ∧
    look (fun t => (t.ch4.ccr.toNat, t.ch4.ccra.toNat)) (.setDuty .ch4 6) afterW8 = some (6, 6) ∧
    writes (.setDuty .ch4 2) pwmFresh = some [(11, 2)] := by decide

/-- W17, W18: the limit is 2^W, not ARR; with W = 32 every value is accepted. -/
theorem test_setDuty_limit :
    reply (.setDuty .ch2 65535) pwmFresh = some 0x00 ∧ reply (.setDuty .ch2 65536) pwmFresh = some 0x07 ∧
    look (fun t => t.ch2.ccr.toNat) (.setDuty .ch2 65536) { pwmFresh with cfg := ⟨.w32, .fault⟩ } = some 65536 := by
  decide

/-- P2 step 2, A1. -/
theorem test_getMaxDuty :
    reply .getMaxDuty pwmFresh = some 0x00000008_00000000 ∧ reply .getMaxDuty State.reset = some 0x03 ∧
    reply .getMaxDuty (timerAt 0 false) = some 0x05 := by decide

/-- W10, W12, W13. -/
theorem test_setPeriod :
    look (fun t => (t.arr.toNat, t.freq.toNat, t.ch1.ccra.toNat, (memRead .ccmr2 t).toNat)) (.setPeriod 2000000)
      afterW8 = some (4, 2000000, 5, 0x6060) ∧
    reply (.setPeriod 0) afterW8 = some 0x12 ∧ reply (.setPeriod 9000000) afterW8 = some 0x22 := by decide

/-- P2 step 18. -/
theorem test_getPeriod : reply .getPeriod pwmFresh = some 0x000F4240_00000000 := by decide

/-! ### The counter -/

/-- C1: CNT and OUT over one period, ARR = 8, CCRA = 4. -/
theorem test_tick_below_boundary :
    let s := tick { pwmWith (onDuty 4 4 true) (onDuty 0 0 true) (onDuty 0 0 true) (onDuty 0 0 true) with cnt := 3 }
    s.cnt.toNat = 4 ∧ s.uif = false ∧ out .ch1 s = some false := by decide

/-- W4, P2 step 5: the rollover sets UIF and transfers the last duty written. -/
theorem test_tick_rollover :
    let s := tick { pwmWith (onDuty 5 0 true) (onDuty 0 0 true) (onDuty 0 0 true) (onDuty 7 1 false) with cnt := 7 }
    s.cnt.toNat = 0 ∧ s.uif = true ∧ s.ch1.ccra.toNat = 5 ∧ s.ch4.ccra.toNat = 1 := by decide

/-- T26: with ARR = 1 every tick is a rollover. -/
theorem test_tick_reload_one :
    let s := tick { timerAt 0 false with arr := 1 }
    s.cnt.toNat = 0 ∧ s.uif = true := by decide

/-- C6: CNT = 6, ARR = 4 under each OVERRUN_POLICY, and CountToMax at CNT = 65535. -/
theorem test_tick_overrun :
    (tick (timerAt 6 false)).undef = true ∧
    (tick { timerAt 6 false with cfg := ⟨.w16, .wrapNow⟩ }).cnt.toNat = 0 ∧
    (tick { timerAt 6 false with cfg := ⟨.w16, .wrapNow⟩ }).uif = true ∧
    (tick { timerAt 6 false with cfg := ⟨.w16, .countToMax⟩ }).cnt.toNat = 7 ∧
    (tick { timerAt 6 false with cfg := ⟨.w16, .countToMax⟩ }).uif = false ∧
    (tick { timerAt 65535 false with cfg := ⟨.w16, .countToMax⟩ }).cnt.toNat = 0 ∧
    (tick { timerAt 65535 false with cfg := ⟨.w16, .countToMax⟩ }).uif = true := by decide

/-- C2, C3: the extremes of OUT, and no value without PWM mode 1. -/
theorem test_out :
    let s := { pwmWith (onDuty 0 0 true) (onDuty 8 8 true) (onDuty 7 7 true) Chan.reset with cnt := 7 }
    out .ch1 s = some false ∧ out .ch2 s = some true ∧ out .ch3 s = some false ∧ out .ch4 s = none := by decide

/-- C4. -/
theorem test_irq :
    irq { State.reset with uie := false, uif := true } = false ∧ irq { State.reset with uie := true } = false ∧
      irq { State.reset with uie := true, uif := true } = true := by decide

/-! ### Steps -/

/-- L1 as the first step after reset. -/
theorem test_step_first_after_reset :
    (nextOf (step (State.reset.withFetchWord 96 0x007A1200_000003E8_00000102))).map
      (fun t => (t.owner, t.arr.toNat, t.port, t.responses.map Response.word)) =
      some (.timer, 8000, [], [0]) := by decide

/-- E1 as the first step after reset: an answer and nothing else. -/
theorem test_step_illegal_word :
    nextOf (step (State.reset.withFetchWord 96 0)) =
      some { State.reset with responses := [.refusal .errIllegalEncoding 0] } := by decide

/-- R200: the block reset clears UNDEF and the trace. -/
theorem test_step_block_reset :
    nextOf (step { timerAt 6 true with sched := [.rst], undef := true, trace := [.regw .cr 1] }) =
      some State.reset := by decide

/-! ### Witnesses: the statements' hypotheses are met -/

/-- The invariants hold of states that are not the reset state. -/
theorem witness_inv_timer : (timerAt 3 true).Inv where
  unowned_stopped := by decide
  running_reload := by decide
  mode_legal c := by cases c <;> decide
  disabled_active c := by cases c <;> decide
  enabled_mode c := by cases c <;> decide
  owned_reload := by decide
  owned_snapshot := by decide
  owned_timing := by decide
  timer_channels _ c := by cases c <;> decide
  pwm_channels h := absurd h (by decide)
  cnt_fits := by unfold FitsW; decide
  arr_fits := by unfold FitsW; decide
  chan_fits c := by unfold FitsW; cases c <;> decide

theorem witness_inv_pwm : afterW8.Inv where
  unowned_stopped := by decide
  running_reload := by decide
  mode_legal c := by cases c <;> decide
  disabled_active c := by cases c <;> decide
  enabled_mode c := by cases c <;> decide
  owned_reload := by decide
  owned_snapshot := by decide
  owned_timing := by decide
  timer_channels h := absurd h (by decide)
  pwm_channels _ c := by cases c <;> decide
  cnt_fits := by unfold FitsW; decide
  arr_fits := by unfold FitsW; decide
  chan_fits c := by unfold FitsW; cases c <;> decide

/-- EncodeOfDecodedWord, DecoderAgreesWithOpcodeTable. -/
theorem witness_EncodeOfDecodedWord : decodeWord 0x007A1200_000003E8_000F0103 = .command (.newPwm 1000 8000000 1 15) := by
  decide

theorem witness_DecoderAgreesWithOpcodeTable :
    (∃ r ∈ opcodeTable, r.owns 0x0D = true ∧ eventLegal 0x0D = true) ∧ (∃ r ∈ opcodeTable, r.owns 0x70 = true) := by
  decide

/-- IllegalWordAnsweredWithoutEffect, StepExecutesDecodedCommand, IncompleteWordWaits (eleven bytes, the most that
are no command), StepStopsOnlyWhileUndefined. -/
theorem witness_IllegalWordAnsweredWithoutEffect :
    let s := { timerAt 0 false with port := commandBytes 0x8D ++ [1, 2] }
    turn s = .host ∧ s.undef = false ∧ s.port = commandBytes 0x8D ++ [1, 2] ∧ WellFormed 0x8D = false := by decide

theorem witness_StepExecutesDecodedCommand :
    let s := { timerAt 0 true with port := commandBytes 0x0B ++ [5], sched := [.host, .tick] }
    turn s = .host ∧ s.undef = false ∧ s.port = commandBytes 0x0B ++ [5] ∧ decodeWord 0x0B = .command .wait := by decide

theorem witness_IncompleteWordWaits :
    let s := { timerAt 0 true with port := List.replicate 11 0 }
    turn s = .host ∧ s.undef = false ∧ s.port.length < 12 := by decide

theorem witness_StepStopsOnlyWhileUndefined :
    (turn { timerAt 6 false with undef := true } = .host) ∧
    ¬(turn { timerAt 6 false with undef := true, sched := [.tick] } = .host) := by decide

/-- ComputeTimingFollowsItsChecks: K20, K5, K4, K12, K14, K11, one for each clause. -/
theorem witness_ComputeTimingFollowsItsChecks :
    totalCount 8000001 8000000 1 < 1 ∧
    (1 ≤ totalCount 1 4294967295 2 ∧ 65535 < prescalerOf (totalCount 1 4294967295 2)) ∧
    (prescalerOf (totalCount 1 2147483648 2) ≤ 65535 ∧ 65535 < reloadOf (totalCount 1 2147483648 2)) ∧
    (prescalerOf (totalCount 1 4294967295 1) = 65535 ∧ reloadOf (totalCount 1 4294967295 1) = 65535) := by decide

/-- CalculatorPairBounds, AchievedFrequencyNotBelowRequested: K11 (both at the maximum), K8 (PSC = 1), K6 (the largest
total with PSC = 0). -/
theorem witness_CalculatorPairBounds :
    computeTiming 1 4294967295 1 = .pair 65535 65535 ∧ computeTiming 1 65537 1 = .pair 1 32768 ∧
    computeTiming 1 65535 1 = .pair 0 65535 := by decide

/-- CalculatorAcceptedTotals: K7 and K8's totals; Accepted at K11 and K3, not at K14. -/
theorem witness_CalculatorAcceptedTotals :
    reloadOf 65536 = 65536 ∧ reloadOf 65537 ≤ 65535 ∧ Accepted 1 4294967295 1 ∧ Accepted 8000000 8000000 1 ∧
    ¬Accepted 1 2147483648 2 := by
  unfold Accepted
  decide

/-- Every CAUSE of ERR_FREQ_RANGE: K5, K4, K12, K14, K7. -/
theorem witness_RangeCause :
    RangeCause 0 8000000 1 1 ∧ RangeCause 8000001 8000000 1 2 ∧ RangeCause 1 4294967295 2 3 ∧
    RangeCause 1 2147483648 2 4 ∧ RangeCause 1 65536 1 4 := by
  unfold RangeCause
  refine ⟨?_, ?_, ?_, ?_, ?_⟩ <;> decide

/-- ComputeAnswersThePair, NewTimerConstructs, NewPwmConstructs, LifecycleTransitions: K2 in an unowned block. -/
theorem witness_constructors : State.reset.owner = .unowned ∧ Accepted 50 72000000 2 ∧ (timerAt 0 false).owner ≠ .unowned := by
  unfold Accepted
  decide

/-- StartRestarts, SetFreqReprogramsLive, SafePeriodChangeMatchesStart: the Timer's snapshot takes T2's frequency and
refuses T5's and T6's. -/
theorem witness_timer_frequency :
    let s := timerAt 3 true
    s.owner = .timer ∧ Accepted 4000000 s.snapClk s.snapDiv ∧ RangeCause 0 s.snapClk s.snapDiv 1 ∧
      RangeCause 8000001 s.snapClk s.snapDiv 2 := by
  unfold Accepted RangeCause
  decide

/-- The per-command statements without operands to check (FreeReleases, PauseAndResumeWriteCen, ResetCounterZeroesCnt,
CounterReturnsCnt, WaitTestsAndClearsUif, ClearUifClears, ListenAndUnlistenWriteUie, EnableSetsModeAndPreload,
DisableClearsPreload, GetDutyReturnsCcr, GetMaxDutyAndGetPeriodRead): a Timer with UIF set and with UIF clear, a Pwm
and an unowned block. -/
theorem witness_lifecycle_states :
    ((timerAt 3 true).owner = .timer ∧ (timerAt 3 true).uif = true) ∧ (timerAt 3 false).uif = false ∧
    State.reset.owner = .unowned ∧ pwmFresh.owner = .pwm := by decide

/-- SetDutyWritesCompare: an Enabled and a Disabled channel, the largest duty and the first one refused. -/
theorem witness_SetDutyWritesCompare :
    afterW8.owner = .pwm ∧ (afterW8.chan .ch1).ocpe = true ∧ (afterW8.chan .ch3).ocpe = false ∧
    (65535 : Word).toNat < 2 ^ afterW8.cfg.width.bits ∧ 2 ^ afterW8.cfg.width.bits ≤ (65536 : Word).toNat := by decide

/-- SetPeriodReprogramsLive: W10, W12, W13. -/
theorem witness_SetPeriodReprogramsLive :
    afterW8.owner = .pwm ∧ Accepted 2000000 afterW8.snapClk afterW8.snapDiv ∧
    RangeCause 0 afterW8.snapClk afterW8.snapDiv 1 ∧ RangeCause 9000000 afterW8.snapClk afterW8.snapDiv 2 := by
  unfold Accepted RangeCause
  decide

/-- TickCountsUp at the last count below the boundary, TickRollsOver at it. -/
theorem witness_ticks :
    let s := { timerAt 2 false with sched := [.tick, .host] }
    let u := { timerAt 3 false with sched := [.tick, .host] }
    (s.cen = true ∧ s.undef = false ∧ s.arr.toNat < 2 ^ s.cfg.width.bits ∧ s.cnt.toNat + 1 < s.arr.toNat) ∧
    (u.sched = .tick :: [.host] ∧ u.cnt.toNat + 1 = u.arr.toNat) := by decide

/-- TickInOverrunFollowsPolicy: the first count in overrun, and the last count there is, under each policy. -/
theorem witness_overrun :
    (timerAt 4 false).overrun ∧ FitsW .w16 (timerAt 4 false).cnt ∧
    (timerAt 65535 false).overrun ∧ (timerAt 65535 false).cnt.toNat = 2 ^ Width.w16.bits - 1 ∧
    (timerAt 4 false).cnt.toNat ≠ 2 ^ Width.w16.bits - 1 ∧
    { timerAt 4 false with cfg := ⟨.w16, .countToMax⟩ }.overrun ∧
    { timerAt 4 false with cfg := ⟨.w16, .wrapNow⟩ }.cfg.overrun = .wrapNow := by
  unfold State.overrun FitsW
  decide

/-- NoTickWhileStopped. -/
theorem witness_NoTickWhileStopped :
    let s := { timerAt 3 false with sched := [.tick], cen := false }
    let u := { timerAt 3 false with sched := [.tick], undef := true }
    (s.sched = .tick :: [] ∧ s.cen = false) ∧ (u.sched = .tick :: [] ∧ u.undef = true) := by decide

/-- RolloverAfterExactlyReloadTicks: two ticks short of it, and exactly on it. -/
theorem witness_RolloverAfterExactlyReloadTicks :
    let s := { timerAt 1 false with sched := List.replicate 2 Agent.tick ++ [Agent.host] }
    let u := { timerAt 1 false with sched := List.replicate 3 Agent.tick ++ [Agent.host] }
    (s.cen = true ∧ s.undef = false ∧ s.cnt.toNat < s.arr.toNat ∧ s.cnt.toNat + 2 < s.arr.toNat) ∧
    (u.cen = true ∧ u.cnt.toNat + 3 = u.arr.toNat) := by decide

/-- OutputHighForCompareTicks: CCRA below ARR, ARR = 8. -/
theorem witness_OutputHighForCompareTicks :
    let s := { afterW8 with sched := List.replicate 7 Agent.tick ++ [Agent.host] }
    s.cen = true ∧ s.undef = false ∧ s.cnt = 0 ∧ 7 < s.arr.toNat ∧ (s.chan .ch1).ocm = 6 := by decide

/-- AdmissionTable, RefusalsArePrecise, StatusesByCommand, AccessTableFrame, NoCommandRaisesTheUpdateEvent,
TraceOnlyGrows: commands of every kind answer a next state. -/
theorem witness_commands_answer :
    (∃ t x, exec (.start 0) (timerAt 3 true) = .next t ∧ t.responses = (timerAt 3 true).responses ++ [x] ∧
      x.status ≠ .ok) ∧
    (∃ t, exec (.disable .ch4) afterW8 = .next t) ∧ (∃ t, exec .counter (timerAt 3 true) = .next t ∧ t.uif = true) ∧
    ownershipStatus .pause .pwm = some .errWrongMode ∧ ownershipStatus .pause .timer = none :=
  ⟨⟨_, .refusal .errFreqRange 1, rfl, rfl, by decide⟩, ⟨_, rfl⟩, ⟨_, rfl, rfl⟩, rfl, rfl⟩

theorem witness_TraceOnlyGrows :
    let s := State.reset.withFetchWord 96 0x007A1200_000003E8_00000102
    turn s ≠ .rst ∧ ∃ t, step s = .next t ∧ .busEnable ∈ t.trace :=
  ⟨by decide, _, rfl, by decide⟩

/-- DutyRoundTrip: a tick from CNT = ARR - 1, which is a rollover (CNT 0, UIF 1, the duty transferred), an ENABLE and a
SET_DUTY of another channel between write and read, and UNDEF = 0 at the end. -/
theorem witness_DutyRoundTrip :
    let s := { pwmFresh with cnt := 7 }
    ∃ t u : State, exec (.setDuty .ch1 5) s = .next t ∧ t.responses = s.responses ++ [.okay 0] ∧
      play [.tick, .command (.enable .ch1), .command (.setDuty .ch2 7)] t = .next u ∧
      u.undef = false ∧ u.owner = .pwm ∧ (u.cnt = 0 ∧ u.uif = true ∧ u.ch1.ccra = 5) ∧
      isSetDuty .ch1 (.setDuty .ch2 7) = false ∧ isConstructor (.setDuty .ch2 7) = false :=
  ⟨_, _, rfl, rfl, rfl, rfl, rfl, ⟨rfl, rfl, rfl⟩, rfl, rfl⟩

/-- FrequencyChangeIsIdempotent: T7, and W10 twice. -/
theorem witness_FrequencyChangeIsIdempotent :
    (∃ t u : State, exec (.setFreq 4000000) (timerAt 0 true) = .next t ∧ exec (.setFreq 4000000) t = .next u) ∧
    (∃ t u : State, exec (.setPeriod 2000000) afterW8 = .next t ∧ exec (.setPeriod 2000000) t = .next u) :=
  ⟨⟨_, _, rfl, rfl⟩, ⟨_, _, rfl, rfl⟩⟩

/-- StepKeepsTheInvariants and CountStaysBelowReload: a step from a state that keeps the invariants, a count below
ARR, and the live change that may break the bound (P4 step 3: CNT 3, ARR from 4 to 2). -/
theorem witness_StepKeepsTheInvariants :
    (timerAt 3 true).Inv ∧ (∃ t, step { timerAt 3 true with sched := [.tick] } = .next t) ∧
      (timerAt 3 true).cnt.toNat < (timerAt 3 true).arr.toNat ∧
      (∃ t, exec (.setFreq 4000000) (timerAt 3 true) = .next t ∧ t.arr.toNat ≤ t.cnt.toNat) :=
  ⟨witness_inv_timer, ⟨_, rfl⟩, by decide, ⟨_, rfl, by decide⟩⟩

/-- DefinedPoliciesNeverStop. -/
theorem witness_DefinedPoliciesNeverStop :
    (State.resetOf ⟨.w16, .countToMax⟩).cfg.overrun ≠ .fault ∧ (State.resetOf ⟨.w32, .wrapNow⟩).undef = false := by decide

/-- SafePeriodChangeMatchesStart: program P4's safe sequence from CNT = 6, ARR = 8. -/
theorem witness_SafePeriodChangeMatchesStart :
    let s := { timerAt 6 false with arr := 8, freq := 1000000 }
    ∃ t u : State,
      play [.command .pause, .command (.setFreq 2000000), .command .resetCounter, .command .resume] s = .next t ∧
      exec (.start 2000000) s = .next u :=
  ⟨_, _, rfl, rfl⟩

/-- BlockResetValues. -/
theorem witness_BlockResetValues : { timerAt 3 true with sched := [.rst, .host] }.sched = .rst :: [.host] := by decide

/-- UnspecifiedRegistersUnobservable: two reset blocks that differ in all five registers, and a run from them. -/
theorem witness_UnspecifiedRegistersUnobservable :
    let s := State.reset.withFetchWord 96 0x007A1200_000003E8_00000102
    let s' := { s with psc := 7, arr := 9, snapClk := 1, snapDiv := 2, freq := 3 }
    SameButUnspecified s s' ∧ s.owner = .unowned ∧ s.cen = false ∧
      ∃ t : State, Host.Core.run Sys2Proof.core 1 s = .next t :=
  ⟨rfl, rfl, rfl, _, rfl⟩

/-- OutputIsTheComparison and IrqFallsOnlyByAcknowledge: each antecedent. -/
theorem witness_OutputIsTheComparison :
    (afterW8.chan .ch1).ocm = 6 ∧ (State.reset.chan .ch1).ocm = 0 ∧ ∃ t, exec .free afterW8 = .next t :=
  ⟨rfl, rfl, _, rfl⟩

theorem witness_IrqFallsOnlyByAcknowledge :
    ∃ t, exec .wait { timerAt 0 true with uie := true } = .next t ∧ irq { timerAt 0 true with uie := true } = true ∧
      irq t = false :=
  ⟨_, rfl, rfl, rfl⟩

/-- RegisterReadAfterWrite: two registers that are not one. -/
theorem witness_RegisterReadAfterWrite :
    RegIdx.ccmr2 ≠ .ccr .ch4 ∧ memRead .ccmr2 (memWrite .ccmr2 0xFFFFFFFF State.reset) = 0x7878 := by decide

end Sys2Proof.Tests
end

section
/-! SUPPORT. The invariants of R27, taken apart into what the block's own registers keep and what one channel keeps, and
kept by every step. -/

namespace Sys2Proof.Machine

/-! ### The invariants of R27 in two parts -/

/-- PSC and ARR are the pair the calculator gives for FREQ and the snapshot (R27 item 6). -/
def State.Timed (s : State) : Prop :=
  ∃ arr : BitVec 16, s.arr = arr.setWidth 32 ∧ computeTiming s.freq s.snapClk s.snapDiv = .pair s.psc arr

/-- The part of R27 and R43 that speaks of no channel. -/
structure State.BlockOk (s : State) : Prop where
  unowned_stopped : s.owner = .unowned → s.cen = false
  owned_timed : s.owner ≠ .unowned → s.Timed
  cnt_fits : FitsW s.cfg.width s.cnt
  arr_fits : FitsW s.cfg.width s.arr

/-- The part of R27 and R43 that speaks of one channel, in a block of width `w` held by `o`. -/
structure Chan.Ok (w : Width) (o : Owner) (x : Chan) : Prop where
  mode_legal : x.ocm = 0 ∨ x.ocm = 6
  disabled_active : x.ocpe = false → x.ccra = x.ccr
  enabled_mode : x.ocpe = true → x.ocm = 6
  timer_idle : o = .timer → x.ocm = 0 ∧ x.ocpe = false ∧ x.ccr = 0
  pwm_mode : o = .pwm → x.ocm = 6
  ccr_fits : FitsW w x.ccr
  ccra_fits : FitsW w x.ccra

theorem fitsW_zero (w : Width) : FitsW w 0 := Nat.two_pow_pos w.bits

theorem fitsW_half (w : Width) (v : BitVec 16) : FitsW w (v.setWidth 32) := by
  rw [← truncW_half w v]
  exact truncW_fits w _

theorem toNat_half (v : BitVec 16) : (v.setWidth 32).toNat = v.toNat := BitVec.toNat_setWidth_of_le (by decide)

/-- The reload value of a timed block is a 16-bit value and at least 1 (R27 items 2 and 6). -/
theorem State.Timed.arr_bounds {s : State} (h : s.Timed) : 1 ≤ s.arr.toNat ∧ s.arr.toNat ≤ 65535 := by
  obtain ⟨arr, harr, hpair⟩ := h
  have hpos := computeTiming_arr_pos hpair
  have hlt := arr.isLt
  rw [harr, toNat_half]
  omega

theorem State.Inv.timed {s : State} (h : s.Inv) (ho : s.owner ≠ .unowned) : s.Timed := by
  refine ⟨s.arr.setWidth 16, ?_, h.owned_timing ho⟩
  obtain ⟨-, hle⟩ := h.owned_reload ho
  apply BitVec.eq_of_toNat_eq
  rw [toNat_half, BitVec.toNat_setWidth, Nat.mod_eq_of_lt (by omega)]

theorem State.Inv.blockOk {s : State} (h : s.Inv) : s.BlockOk where
  unowned_stopped := h.unowned_stopped
  owned_timed := h.timed
  cnt_fits := h.cnt_fits
  arr_fits := h.arr_fits

theorem State.Inv.chanOk {s : State} (h : s.Inv) (c : Channel) : (s.chan c).Ok s.cfg.width s.owner where
  mode_legal := h.mode_legal c
  disabled_active := h.disabled_active c
  enabled_mode := h.enabled_mode c
  timer_idle ho := h.timer_channels ho c
  pwm_mode ho := h.pwm_channels ho c
  ccr_fits := (h.chan_fits c).1
  ccra_fits := (h.chan_fits c).2

theorem State.BlockOk.inv {s : State} (hb : s.BlockOk) (hc : ∀ c, (s.chan c).Ok s.cfg.width s.owner) : s.Inv where
  unowned_stopped := hb.unowned_stopped
  running_reload hcen := (hb.owned_timed fun ho => by simp [hb.unowned_stopped ho] at hcen).arr_bounds
  mode_legal c := (hc c).mode_legal
  disabled_active c := (hc c).disabled_active
  enabled_mode c := (hc c).enabled_mode
  owned_reload ho := (hb.owned_timed ho).arr_bounds
  owned_snapshot ho := by
    obtain ⟨_, -, hpair⟩ := hb.owned_timed ho
    obtain ⟨hdiv, hf, -⟩ := computeTiming_pair hpair
    exact ⟨hdiv, hf⟩
  owned_timing ho := by
    obtain ⟨arr, harr, hpair⟩ := hb.owned_timed ho
    simpa [harr] using hpair
  timer_channels ho c := (hc c).timer_idle ho
  pwm_channels ho c := (hc c).pwm_mode ho
  cnt_fits := hb.cnt_fits
  arr_fits := hb.arr_fits
  chan_fits c := ⟨(hc c).ccr_fits, (hc c).ccra_fits⟩

/-! ### What one channel keeps -/

theorem Chan.Ok.reset {w : Width} {o : Owner} (ho : o ≠ .pwm) : Chan.reset.Ok w o where
  mode_legal := .inl rfl
  disabled_active _ := rfl
  enabled_mode h := by cases h
  timer_idle _ := ⟨rfl, rfl, rfl⟩
  pwm_mode h := absurd h ho
  ccr_fits := fitsW_zero w
  ccra_fits := fitsW_zero w

/-- A channel whose compare values fit is in order once ENABLE_STEP has set its mode and preload (R130). -/
theorem Chan.Ok.enabled {w : Width} {x : Chan} (hccr : FitsW w x.ccr) (hccra : FitsW w x.ccra) :
    { x with ocm := 6, ocpe := true }.Ok w .pwm where
  mode_legal := .inr rfl
  disabled_active h := by cases h
  enabled_mode _ := rfl
  timer_idle h := by cases h
  pwm_mode _ := rfl
  ccr_fits := hccr
  ccra_fits := hccra

theorem Chan.Ok.disabled {w : Width} {x : Chan} (h : x.Ok w .pwm) : { x with ocpe := false, ccra := x.ccr }.Ok w .pwm where
  mode_legal := h.mode_legal
  disabled_active _ := rfl
  enabled_mode h := by cases h
  timer_idle h := by cases h
  pwm_mode := h.pwm_mode
  ccr_fits := h.ccr_fits
  ccra_fits := h.ccr_fits

theorem Chan.Ok.withDuty {w : Width} {x : Chan} {v : Word} (h : x.Ok w .pwm) (hv : FitsW w v) :
    { x with ccr := v, ccra := if x.ocpe then x.ccra else v }.Ok w .pwm where
  mode_legal := h.mode_legal
  disabled_active hp := if_neg (by simpa using hp)
  enabled_mode := h.enabled_mode
  timer_idle h := by cases h
  pwm_mode := h.pwm_mode
  ccr_fits := hv
  ccra_fits := by
    show FitsW w (if x.ocpe then x.ccra else v)
    split
    · exact h.ccra_fits
    · exact hv

theorem Chan.Ok.transfer {w : Width} {o : Owner} {x : Chan} (h : x.Ok w o) : (transfer x).Ok w o where
  mode_legal := by simpa using h.mode_legal
  disabled_active hp := by
    have hp : x.ocpe = false := by simpa using hp
    simpa [hp] using h.disabled_active hp
  enabled_mode := by simpa using h.enabled_mode
  timer_idle := by simpa using h.timer_idle
  pwm_mode := by simpa using h.pwm_mode
  ccr_fits := by simpa using h.ccr_fits
  ccra_fits := by
    rw [transfer_ccra]
    split
    · exact h.ccr_fits
    · exact h.ccra_fits

/-- A channel that is in order in an owned block stays so when FREE releases it (R103). -/
theorem Chan.Ok.freed {w : Width} {o : Owner} {x : Chan} (h : x.Ok w o) : x.Ok w .unowned where
  mode_legal := h.mode_legal
  disabled_active := h.disabled_active
  enabled_mode := h.enabled_mode
  timer_idle h := by cases h
  pwm_mode h := by cases h
  ccr_fits := h.ccr_fits
  ccra_fits := h.ccra_fits

theorem Chan.Ok.all {w : Width} {o : Owner} {s : State} (h1 : s.ch1.Ok w o) (h2 : s.ch2.Ok w o) (h3 : s.ch3.Ok w o)
    (h4 : s.ch4.Ok w o) (c : Channel) : (s.chan c).Ok w o := by
  cases c
  · exact h1
  · exact h2
  · exact h3
  · exact h4

/-! ### The invariants under the updates of the state -/

/-- The invariants speak neither of the flags nor of what the model keeps of the two ports. -/
theorem State.Inv.withFlags {s : State} (h : s.Inv) (uie uif undef : Bool) (trace : List OutEvent)
    (responses : List Response) (port : List Byte) (sched : List Agent) :
    State.Inv { s with
      uie := uie, uif := uif, undef := undef, trace := trace, responses := responses, port := port, sched := sched } :=
  { h with }

theorem State.Inv.answer {s : State} (h : s.Inv) (x : Response) : (answer x s).Inv := h.withFlags ..

theorem State.Inv.emit {s : State} (h : s.Inv) (e : OutEvent) : (emit e s).Inv := h.withFlags ..

theorem State.Inv.endTurn {s : State} (h : s.Inv) : (endTurn s).Inv := h.withFlags ..

theorem State.Inv.consume {s : State} (h : s.Inv) (rest : List Byte) : (consume rest s).Inv := h.withFlags ..

theorem State.Inv.setChan {s : State} (h : s.Inv) (c : Channel) {x : Chan} (hx : x.Ok s.cfg.width s.owner) :
    (s.setChan c x).Inv := by
  refine State.BlockOk.inv ⟨?_, ?_, ?_, ?_⟩ fun d => ?_
  · simpa using h.unowned_stopped
  · simpa [State.Timed] using h.timed
  · simpa using h.cnt_fits
  · simpa using h.arr_fits
  · rw [setChan_cfg, setChan_owner]
    by_cases hd : d = c
    · simpa [hd] using hx
    · simpa [chan_setChan_ne s x hd] using h.chanOk d

theorem State.Inv.withCnt {s : State} (h : s.Inv) {v : Word} (hv : FitsW s.cfg.width v) :
    State.Inv { s with cnt := v } :=
  { h with cnt_fits := hv }

theorem State.Inv.withCen {s : State} (h : s.Inv) {b : Bool} (hb : s.owner = .unowned → b = false) :
    State.Inv { s with cen := b } :=
  State.BlockOk.inv { h.blockOk with unowned_stopped := hb } h.chanOk

/-- An owned block takes a new frequency and the pair the calculator gives for it. -/
theorem State.Inv.retime {s : State} (h : s.Inv) (ho : s.owner ≠ .unowned) {f : Word} {psc arr : BitVec 16}
    (hpair : computeTiming f s.snapClk s.snapDiv = .pair psc arr) :
    State.Inv { s with freq := f, psc := psc, arr := arr.setWidth 32 } :=
  State.BlockOk.inv
    { unowned_stopped := fun h' => absurd h' ho
      owned_timed := fun _ => ⟨arr, rfl, hpair⟩
      cnt_fits := h.cnt_fits
      arr_fits := fitsW_half _ arr }
    h.chanOk

/-- A block just constructed: owned, counting from 0, timed by the constructor's operands. -/
theorem State.BlockOk.constructed {s : State} {arr : BitVec 16} (ho : s.owner ≠ .unowned) (hcnt : s.cnt = 0)
    (harr : s.arr = arr.setWidth 32) (hpair : computeTiming s.freq s.snapClk s.snapDiv = .pair s.psc arr) :
    s.BlockOk where
  unowned_stopped h := absurd h ho
  owned_timed _ := ⟨arr, harr, hpair⟩
  cnt_fits := hcnt ▸ fitsW_zero _
  arr_fits := harr ▸ fitsW_half _ arr

/-! ### The invariants under commands -/

@[simp] theorem activate_emit_setChan (c : Channel) (e : OutEvent) (s : State) (x : Chan) :
    activate c (emit e (s.setChan c x)) = emit e (s.setChan c { x with ccra := x.ccr }) := by
  cases c <;> rfl

theorem Effect.inv {i : Instr} {s u : State} (he : Effect i s u) (h : s.Inv) : u.Inv := by
  cases he with
  | compute | counter | getDuty | getMaxDuty | getPeriod => exact h
  | newTimer _ hpair =>
    have hx : Chan.reset.Ok s.cfg.width .timer := .reset (by decide)
    exact (State.BlockOk.constructed (by simp) rfl rfl hpair).inv (Chan.Ok.all hx hx hx hx)
  | newPwm _ hpair =>
    have hx : Chan.Ok s.cfg.width .pwm ⟨0#32, 0#32, 6, true⟩ :=
      .enabled (x := Chan.reset) (fitsW_zero _) (fitsW_zero _)
    exact (State.BlockOk.constructed (by simp) rfl rfl hpair).inv (Chan.Ok.all hx hx hx hx)
  | free =>
    refine State.BlockOk.inv ⟨fun _ => rfl, fun h' => absurd rfl h', h.cnt_fits, h.arr_fits⟩ fun c => ?_
    exact (h.chanOk c).freed
  | start ho hpair =>
    have ho : s.owner ≠ .unowned := by simp [ho]
    exact (((h.retime ho hpair).withCnt (fitsW_zero _)).withCen fun h' => absurd h' ho).withFlags ..
  | setFreq ho hpair => exact (h.retime (by simp [ho]) hpair).withFlags ..
  | setPeriod ho hpair => exact (h.retime (by simp [ho]) hpair).withFlags ..
  | pause => exact (h.withCen fun _ => rfl).withFlags ..
  | resume ho => exact (h.withCen (b := true) fun h' => by simp [ho] at h').withFlags ..
  | resetCounter => exact (h.withCnt (fitsW_zero _)).withFlags ..
  | wait | clearUif | listen | unlisten => exact h.withFlags ..
  | @enable _ _ c ho hu =>
    obtain ⟨hccr, hccra⟩ := h.chan_fits c
    subst hu
    exact (h.setChan c (by rw [ho]; exact .enabled hccr hccra)).emit _
  | @disable _ _ c ho hu =>
    have hx := h.chanOk c
    rw [ho] at hx
    subst hu
    rw [activate_emit_setChan]
    exact (h.setChan c (by rw [ho]; exact hx.disabled)).emit _
  | @setDuty _ c v ho hv =>
    have hx := h.chanOk c
    rw [ho] at hx
    exact (h.setChan c (by rw [ho]; exact hx.withDuty hv)).emit _

theorem exec_inv {i : Instr} {s t : State} (h : s.Inv) (he : exec i s = .next t) : t.Inv := by
  rcases exec_next he with ⟨_, _, -, rfl⟩ | ⟨u, v, hu, rfl⟩
  · exact h.answer _
  · exact (hu.inv h).answer _

/-! ### The invariants under ticks and the block reset -/

theorem State.Inv.countUp {s : State} (h : s.Inv) : (countUp s).Inv := h.withCnt (truncW_fits _ _)

theorem State.Inv.rollover {s : State} (h : s.Inv) : (rollover s).Inv := by
  rw [rollover_eq]
  refine State.BlockOk.inv { h.blockOk with cnt_fits := fitsW_zero _ } ?_
  exact Chan.Ok.all (h.chanOk .ch1).transfer (h.chanOk .ch2).transfer (h.chanOk .ch3).transfer (h.chanOk .ch4).transfer

theorem tick_inv {s : State} (h : s.Inv) : (tick s).Inv := by
  rcases tick_cases s with
    ht | ⟨-, -, ⟨-, ht⟩ | ⟨-, ht⟩ | ⟨-, ⟨-, ht⟩ | ⟨-, ht⟩ | ⟨-, -, ht⟩⟩⟩ <;> rw [ht]
  · exact h
  · exact h.countUp
  · exact h.rollover
  · exact h.withFlags ..
  · exact h.rollover
  · exact h.countUp

theorem fitsW_resetArr (w : Width) : FitsW w (resetArr w) := by
  cases w <;> simp [FitsW, resetArr, Width.bits]

/-- Settles O48: after the block reset the block is unowned and stopped, and every register is zero but ARR, which is
W one bits. -/
theorem resetKeepsTheInvariants : Obligations.ResetKeepsTheInvariants := fun cfg =>
  State.BlockOk.inv ⟨fun _ => rfl, fun h => absurd rfl h, fitsW_zero _, fitsW_resetArr _⟩ fun c => by
    rw [resetOf_chan]
    exact .reset (by simp [State.resetOf])

theorem blockReset_inv (s : State) : (blockReset s).Inv := (resetKeepsTheInvariants s.cfg).withFlags ..

/-- Settles O49, by the three agents: the block reset establishes the invariants, a tick and a command keep them. -/
theorem stepKeepsTheInvariants : Obligations.StepKeepsTheInvariants := by
  intro s t h hstep
  rcases step_next hstep with ⟨-, rfl⟩ | ⟨-, rfl⟩ | ⟨-, -, ⟨-, rfl⟩ | ⟨_, rest, -, ⟨_, -, rfl⟩ | ⟨i, -, he⟩⟩⟩
  · exact blockReset_inv _
  · exact tick_inv h.endTurn
  · exact h.endTurn
  · exact (h.endTurn.consume rest).answer _
  · exact exec_inv (h.endTurn.consume rest) he

end Sys2Proof.Machine
end

section
/-! SUPPORT. When a step stops: no command ever does, the host's turn only while UNDEF = 1. -/

namespace Sys2Proof.Machine

/-! ### Every command answers -/

/-- The result is a next state. -/
def Answers (r : Result) : Prop := ∃ t, r = .next t

theorem answers_next (s : State) : Answers (.next s) := ⟨s, rfl⟩

theorem answers_respondOk (v : Word) (s : State) : Answers (respondOk v s) := answers_next _

theorem answers_raise (st : Status) (cause : BitVec 4) (s : State) : Answers (raise st cause s) := answers_next _

theorem answers_admitIn (modes : List Owner) (s : State) {k : Result} (hk : Answers k) : Answers (admitIn modes s k) := by
  unfold admitIn
  split
  · exact answers_raise ..
  · split
    · exact hk
    · exact answers_raise ..

theorem answers_onlyUnowned (s : State) {k : Result} (hk : Answers k) : Answers (onlyUnowned s k) := by
  unfold onlyUnowned
  split
  · exact hk
  · exact answers_raise ..

theorem answers_withTiming (f clk : Word) (div : Byte) (s : State) {k : BitVec 16 → BitVec 16 → Result}
    (hk : ∀ psc arr, Answers (k psc arr)) : Answers (withTiming f clk div s k) := by
  unfold withTiming
  split
  · exact hk _ _
  · exact answers_raise ..

theorem answers_changePeriod (f : Word) (s : State) : Answers (changePeriod f s) :=
  answers_withTiming _ _ _ _ fun _ _ => answers_respondOk ..

/-- No command stops the machine (R55: every command gets its response). -/
theorem exec_answers (i : Instr) (s : State) : Answers (exec i s) := by
  cases i with
  | compute => exact answers_withTiming _ _ _ _ fun _ _ => answers_respondOk ..
  | newTimer => exact answers_onlyUnowned _ (answers_withTiming _ _ _ _ fun _ _ => answers_respondOk ..)
  | newPwm f clk div pv =>
    refine answers_onlyUnowned s ?_
    split
    · split
      · exact answers_withTiming _ _ _ _ fun _ _ => answers_respondOk ..
      · exact answers_raise ..
    · exact answers_raise ..
  | start => exact answers_admitIn _ _ (answers_withTiming _ _ _ _ fun _ _ => answers_respondOk ..)
  | setFreq | setPeriod => exact answers_admitIn _ _ (answers_changePeriod ..)
  | wait =>
    refine answers_admitIn _ _ ?_
    split
    · exact answers_respondOk ..
    · exact answers_raise ..
  | setDuty =>
    refine answers_admitIn _ _ ?_
    split
    · exact answers_respondOk ..
    · exact answers_raise ..
  | listen ev | unlisten ev =>
    cases ev
    exact answers_admitIn _ _ (answers_respondOk ..)
  | free | pause | resume | resetCounter | counter | clearUif | enable | disable | getDuty | getMaxDuty | getPeriod =>
    exact answers_admitIn _ _ (answers_respondOk ..)

/-! ### The host's turn, by what stands on the port -/

section
variable {s : State} (ht : turn s = .host) (hu : s.undef = false)
include ht hu

theorem step_waits (hp : takeCommand s.port = none) : step s = .next (endTurn s) := by
  rw [step_host ht, hostTurn_waits (by simpa using hu) (by simpa using hp)]

theorem step_word {w : CommandWord} {rest : List Byte} (hp : takeCommand s.port = some (w, rest)) :
    step s = execWord w (consume rest (endTurn s)) := by
  rw [step_host ht, hostTurn_word (by simpa using hu) (by simpa using hp)]

theorem step_rejected {w : CommandWord} {rest : List Byte} {e : DecodeError}
    (hp : takeCommand s.port = some (w, rest)) (hd : decodeWord w = .rejected e) :
    step s = .next (answer (.refusal .errIllegalEncoding 0) (consume rest (endTurn s))) := by
  rw [step_word ht hu hp, execWord_rejected _ hd]

theorem step_command {w : CommandWord} {rest : List Byte} {i : Instr}
    (hp : takeCommand s.port = some (w, rest)) (hd : decodeWord w = .command i) :
    step s = exec i (consume rest (endTurn s)) := by
  rw [step_word ht hu hp, execWord_command _ hd]

theorem step_host_answers : Answers (step s) := by
  cases hp : takeCommand s.port with
  | none => exact ⟨_, step_waits ht hu hp⟩
  | some wr =>
    obtain ⟨w, rest⟩ := wr
    cases hd : decodeWord w with
    | rejected e => exact ⟨_, step_rejected ht hu hp hd⟩
    | command i =>
      rw [step_command ht hu hp hd]
      exact exec_answers i _

end

theorem step_answers {s : State} (h : ¬(turn s = .host ∧ s.undef = true)) : Answers (step s) := by
  cases ht : turn s with
  | host => exact step_host_answers ht (by simpa [ht] using h)
  | tick => exact ⟨_, step_tick ht⟩
  | rst => exact ⟨_, step_rst ht⟩

/-- Settles O8: of the three agents only the host can be stopped, and only by the test of UNDEF its turn begins with;
the command it then executes always answers. -/
theorem stepStopsOnlyWhileUndefined : Obligations.StepStopsOnlyWhileUndefined := by
  refine fun s => ⟨fun ht hu => ?_, step_answers⟩
  rw [step_host ht, hostTurn_undef (by simpa using hu)]

end Sys2Proof.Machine
end

section
/-! SUPPORT. What a command leaves unchanged: one lemma per column of the access table (R30, R136). -/

namespace Sys2Proof.Machine

open Sys2Proof.Claims

/-- What no response and no effect of the command changes, the command does not change. -/
theorem exec_keeps {α : Type} (view : State → α) {i : Instr} {s t : State} (h : exec i s = .next t)
    (hanswer : ∀ x u, view (answer x u) = view u) (heffect : ∀ u, Effect i s u → view u = view s) :
    view t = view s := by
  rcases exec_next h with ⟨_, _, -, rfl⟩ | ⟨u, v, he, rfl⟩
  · exact hanswer _ s
  · exact (hanswer _ u).trans (heffect u he)

section
variable {i : Instr} {s t : State} (h : exec i s = .next t)
include h

theorem exec_keeps_surroundings : t.cfg = s.cfg ∧ t.undef = s.undef ∧ t.port = s.port ∧ t.sched = s.sched := by
  have := exec_keeps (fun s => (s.cfg, s.undef, s.port, s.sched)) h (fun _ _ => rfl) fun u he => by
    cases he with
    | enable _ hu | disable _ hu => simp [hu]
    | _ => simp
  simpa using this

theorem exec_keeps_snapshot (hc : isConstructor i = false) : t.snapClk = s.snapClk ∧ t.snapDiv = s.snapDiv := by
  have := exec_keeps (fun s => (s.snapClk, s.snapDiv)) h (fun _ _ => rfl) fun u he => by
    cases he with
    | newTimer | newPwm => cases hc
    | enable _ hu | disable _ hu => simp [hu]
    | _ => simp
  simpa using this

theorem exec_keeps_owner (hc : isConstructor i = false) (hf : i ≠ .free) : t.owner = s.owner :=
  exec_keeps State.owner h (fun _ _ => rfl) fun u he => by
    cases he with
    | newTimer | newPwm => cases hc
    | free => exact absurd rfl hf
    | enable _ hu | disable _ hu => simp [hu]
    | _ => simp

theorem exec_keeps_timing (hc : isConstructor i = false) (hr : isRetiming i = false) :
    t.freq = s.freq ∧ t.psc = s.psc ∧ t.arr = s.arr := by
  have := exec_keeps (fun s => (s.freq, s.psc, s.arr)) h (fun _ _ => rfl) fun u he => by
    cases he with
    | newTimer | newPwm => cases hc
    | start | setFreq | setPeriod => cases hr
    | enable _ hu | disable _ hu => simp [hu]
    | _ => simp
  simpa using this

theorem exec_keeps_cen (hc : isConstructor i = false) (hf : i ≠ .free) (hp : i ≠ .pause) (hr : i ≠ .resume)
    (hs : ∀ f, i ≠ .start f) : t.cen = s.cen :=
  exec_keeps State.cen h (fun _ _ => rfl) fun u he => by
    cases he with
    | newTimer | newPwm => cases hc
    | free => exact absurd rfl hf
    | pause => exact absurd rfl hp
    | resume => exact absurd rfl hr
    | start => exact absurd rfl (hs _)
    | enable _ hu | disable _ hu => simp [hu]
    | _ => simp

theorem exec_keeps_cnt (hc : isConstructor i = false) (hs : ∀ f, i ≠ .start f) (hr : i ≠ .resetCounter) :
    t.cnt = s.cnt :=
  exec_keeps State.cnt h (fun _ _ => rfl) fun u he => by
    cases he with
    | newTimer | newPwm => cases hc
    | start => exact absurd rfl (hs _)
    | resetCounter => exact absurd rfl hr
    | enable _ hu | disable _ hu => simp [hu]
    | _ => simp

theorem exec_keeps_uie (hc : isConstructor i = false) (hl : ∀ e, i ≠ .listen e) (hu : ∀ e, i ≠ .unlisten e) :
    t.uie = s.uie :=
  exec_keeps State.uie h (fun _ _ => rfl) fun u he => by
    cases he with
    | newTimer | newPwm => cases hc
    | listen => exact absurd rfl (hl _)
    | unlisten => exact absurd rfl (hu _)
    | enable _ hu | disable _ hu => simp [hu]
    | _ => simp

theorem exec_keeps_uif (hc : isConstructor i = false) (hw : i ≠ .wait) (hl : i ≠ .clearUif) : t.uif = s.uif :=
  exec_keeps State.uif h (fun _ _ => rfl) fun u he => by
    cases he with
    | newTimer | newPwm => cases hc
    | wait => exact absurd rfl hw
    | clearUif => exact absurd rfl hl
    | enable _ hu | disable _ hu => simp [hu]
    | _ => simp

end

/-- A register of channel d is unchanged by an update of channel c that, if it is the same channel, keeps it. -/
theorem chan_setChan_view {α : Type} (view : Chan → α) {s : State} {c d : Channel} {x : Chan}
    (h : d = c → view x = view (s.chan c)) : view ((s.setChan c x).chan d) = view (s.chan d) := by
  by_cases hd : d = c
  · subst hd
    rw [chan_setChan, h rfl]
  · rw [chan_setChan_ne s x hd]

section
variable {i : Instr} {s t : State} (h : exec i s = .next t) (hc : isConstructor i = false) (d : Channel)
include h hc

theorem exec_keeps_ccr (hs : isSetDuty d i = false) : (t.chan d).ccr = (s.chan d).ccr :=
  exec_keeps (fun s => (s.chan d).ccr) h (fun _ _ => by simp) fun u he => by
    cases he with
    | newTimer | newPwm => cases hc
    | enable _ hu | disable _ hu =>
      simp only [hu, activate_emit_setChan, emit_chan]
      exact chan_setChan_view Chan.ccr fun _ => rfl
    | setDuty =>
      simp only [emit_chan]
      exact chan_setChan_view Chan.ccr fun hd => by simp [isSetDuty, hd] at hs
    | _ => rfl

theorem exec_keeps_ccra (hs : isSetDuty d i = false) (hx : i ≠ .disable d) : (t.chan d).ccra = (s.chan d).ccra :=
  exec_keeps (fun s => (s.chan d).ccra) h (fun _ _ => by simp) fun u he => by
    cases he with
    | newTimer | newPwm => cases hc
    | enable _ hu =>
      simp only [hu, emit_chan]
      exact chan_setChan_view Chan.ccra fun _ => rfl
    | disable _ hu =>
      simp only [hu, activate_emit_setChan, emit_chan]
      exact chan_setChan_view Chan.ccra fun hd => absurd (hd ▸ rfl) hx
    | setDuty =>
      simp only [emit_chan]
      exact chan_setChan_view Chan.ccra fun hd => by simp [isSetDuty, hd] at hs
    | _ => rfl

theorem exec_keeps_ocm (hx : i ≠ .enable d) : (t.chan d).ocm = (s.chan d).ocm :=
  exec_keeps (fun s => (s.chan d).ocm) h (fun _ _ => by simp) fun u he => by
    cases he with
    | newTimer | newPwm => cases hc
    | enable _ hu =>
      simp only [hu, emit_chan]
      exact chan_setChan_view Chan.ocm fun hd => absurd (hd ▸ rfl) hx
    | disable _ hu =>
      simp only [hu, activate_emit_setChan, emit_chan]
      exact chan_setChan_view Chan.ocm fun _ => rfl
    | setDuty =>
      simp only [emit_chan]
      exact chan_setChan_view Chan.ocm fun _ => rfl
    | _ => rfl

theorem exec_keeps_ocpe (he : i ≠ .enable d) (hx : i ≠ .disable d) : (t.chan d).ocpe = (s.chan d).ocpe :=
  exec_keeps (fun s => (s.chan d).ocpe) h (fun _ _ => by simp) fun u he' => by
    cases he' with
    | newTimer | newPwm => cases hc
    | enable _ hu =>
      simp only [hu, emit_chan]
      exact chan_setChan_view Chan.ocpe fun hd => absurd (hd ▸ rfl) he
    | disable _ hu =>
      simp only [hu, activate_emit_setChan, emit_chan]
      exact chan_setChan_view Chan.ocpe fun hd => absurd (hd ▸ rfl) hx
    | setDuty =>
      simp only [emit_chan]
      exact chan_setChan_view Chan.ocpe fun _ => rfl
    | _ => rfl

end

/-- Settles O43: the columns of the access table, put together. -/
theorem accessTableFrame : Obligations.AccessTableFrame := fun _ _ _ h =>
  ⟨exec_keeps_surroundings h, exec_keeps_snapshot h, exec_keeps_owner h, exec_keeps_timing h, exec_keeps_cen h,
    exec_keeps_cnt h, exec_keeps_uie h, exec_keeps_uif h, fun d hc =>
    ⟨exec_keeps_ccr h hc d, exec_keeps_ccra h hc d, exec_keeps_ocm h hc d, exec_keeps_ocpe h hc d⟩⟩

end Sys2Proof.Machine
end

section
/-! SUPPORT. The trace, the count below the reload value, and runs under a policy that defines every tick. -/

namespace Sys2Proof.Machine

open Sys2Proof.Claims

/-! ### What a tick leaves unchanged -/

/-- A tick changes only the count, UIF, the active compare values and UNDEF. -/
theorem tick_keeps {α : Type} (view : State → α)
    (hview : ∀ (u : State) cnt uif undef ch1 ch2 ch3 ch4,
      view { u with cnt := cnt, uif := uif, undef := undef, ch1 := ch1, ch2 := ch2, ch3 := ch3, ch4 := ch4 } = view u)
    (s : State) : view (tick s) = view s := by
  rcases tick_cases s with
    ht | ⟨-, -, ⟨-, ht⟩ | ⟨-, ht⟩ | ⟨-, ⟨-, ht⟩ | ⟨-, ht⟩ | ⟨-, -, ht⟩⟩⟩ <;> rw [ht]
  · exact hview s ..
  · exact hview s ..
  · exact hview s ..
  · exact hview s ..
  · exact hview s ..

@[simp] theorem tick_trace (s : State) : (tick s).trace = s.trace := tick_keeps State.trace (by intros; rfl) s

@[simp] theorem tick_cfg (s : State) : (tick s).cfg = s.cfg := tick_keeps State.cfg (by intros; rfl) s

@[simp] theorem tick_arr (s : State) : (tick s).arr = s.arr := tick_keeps State.arr (by intros; rfl) s

/-- Only the Fault policy sets UNDEF (R153). -/
theorem tick_undef {s : State} (hp : s.cfg.overrun ≠ .fault) : (tick s).undef = s.undef := by
  rcases tick_cases s with
    ht | ⟨-, -, ⟨-, ht⟩ | ⟨-, ht⟩ | ⟨-, ⟨hf, -⟩ | ⟨-, ht⟩ | ⟨-, -, ht⟩⟩⟩
  · rw [ht]
  · rw [ht]; rfl
  · rw [ht]; rfl
  · exact absurd hf hp
  · rw [ht]; rfl
  · rw [ht]; rfl

/-! ### The trace -/

/-- `t` has the trace of `s` and the events of one step; BUSCTL calls are among them only if the step took an unowned
block, and then all three begin them (R100). -/
def TraceExtends (s t : State) : Prop :=
  ∃ evs, t.trace = s.trace ++ evs ∧
    ((.busEnable ∈ evs ∨ .busResetAssert ∈ evs ∨ .busResetClear ∈ evs) →
      s.owner = .unowned ∧ t.owner ≠ .unowned ∧ busEvents <+: evs)

theorem TraceExtends.of_eq {s t : State} (h : t.trace = s.trace) : TraceExtends s t := ⟨[], by simp [h], by simp⟩

theorem TraceExtends.of_construction {s t : State} {evs : List OutEvent} (h : t.trace = s.trace ++ (busEvents ++ evs))
    (hs : s.owner = .unowned) (ht : t.owner ≠ .unowned) : TraceExtends s t :=
  ⟨_, h, fun _ => ⟨hs, ht, List.prefix_append ..⟩⟩

theorem TraceExtends.of_writes {s t : State} {writes : List (RegIdx × Word)}
    (h : t.trace = s.trace ++ writes.map fun w => .regw w.1 w.2) : TraceExtends s t :=
  ⟨_, h, by simp⟩

theorem Effect.traceExtends {i : Instr} {s u : State} (he : Effect i s u) : TraceExtends s u := by
  cases he with
  | compute | counter | getDuty | getMaxDuty | getPeriod => exact .of_eq rfl
  | newTimer ho | newPwm ho => exact .of_construction rfl ho (by simp)
  | free | pause => exact .of_writes (writes := [(.cr, 0)]) rfl
  | resume => exact .of_writes (writes := [(.cr, 1)]) rfl
  | resetCounter => exact .of_writes (writes := [(.cnt, 0)]) rfl
  | wait | clearUif => exact .of_writes (writes := [(.sr, 0)]) rfl
  | listen => exact .of_writes (writes := [(.ier, 1)]) rfl
  | unlisten => exact .of_writes (writes := [(.ier, 0)]) rfl
  | @start _ _ psc arr =>
    exact .of_writes (writes := [(.cr, 0), (.psc, psc.setWidth 32), (.arr, arr.setWidth 32), (.cnt, 0), (.cr, 1)]) rfl
  | @setFreq _ _ psc arr | @setPeriod _ _ psc arr =>
    exact .of_writes (writes := [(.psc, psc.setWidth 32), (.arr, arr.setWidth 32)]) rfl
  | @enable _ u c _ hu => exact .of_writes (writes := [(ccmrOf c, memRead (ccmrOf c) u)]) (by simp [hu])
  | @disable _ u c _ hu => exact .of_writes (writes := [(ccmrOf c, memRead (ccmrOf c) u)]) (by simp [hu])
  | @setDuty _ c v => exact .of_writes (writes := [(.ccr c, v)]) (by simp)

theorem exec_traceExtends {i : Instr} {s t : State} (h : exec i s = .next t) : TraceExtends s t := by
  rcases exec_next h with ⟨_, _, -, rfl⟩ | ⟨u, v, he, rfl⟩
  · exact .of_eq rfl
  · exact he.traceExtends

/-- Settles O47: ticks and refusals leave the trace, a command appends its own events. -/
theorem traceOnlyGrows : Obligations.TraceOnlyGrows := by
  intro s t hstep hrst
  rcases step_next hstep with ⟨h, -⟩ | ⟨-, rfl⟩ | ⟨-, -, ⟨-, rfl⟩ | ⟨_, rest, -, ⟨_, -, rfl⟩ | ⟨i, -, he⟩⟩⟩
  · exact absurd h hrst
  · exact TraceExtends.of_eq (tick_trace _)
  · exact TraceExtends.of_eq rfl
  · exact TraceExtends.of_eq rfl
  · exact (exec_traceExtends he : TraceExtends (consume rest (endTurn s)) t)

/-! ### The count and the reload value -/

/-- START and the constructors, once answered OK, count from 0 to a reload value of at least 1 (R101, R88 item 1). -/
theorem Effect.restarts {i : Instr} {s u : State} (he : Effect i s u)
    (hi : (∃ f, i = .start f) ∨ isConstructor i = true) : u.cnt.toNat < u.arr.toNat := by
  have restarted {arr : BitVec 16} (h : 1 ≤ arr.toNat) : (0#32).toNat < (arr.setWidth 32).toNat := by
    rw [toNat_half]
    exact h
  cases he with
  | newTimer _ hpair | newPwm _ hpair | start _ hpair => exact restarted (computeTiming_arr_pos hpair)
  | _ => simp [isConstructor] at hi

theorem isRetiming_iff {i : Instr} : isRetiming i = true ↔ (∃ f, i = .start f) ∨ ∃ f, i = .setFreq f ∨ i = .setPeriod f := by
  cases i <;> simp [isRetiming]

theorem exec_resetCounter_cnt {s t : State} (h : exec .resetCounter s = .next t) : t.cnt = s.cnt ∨ t.cnt = 0 := by
  rcases exec_next h with ⟨_, _, -, rfl⟩ | ⟨_, _, he, rfl⟩
  · exact .inl rfl
  · cases he
    exact .inr rfl

/-- R27 item 8 for a command: START and the constructors start a new period, SET_FREQ and SET_PERIOD may lower ARR,
RESET_COUNTER may lower CNT, and no other command touches either. -/
theorem exec_cnt_lt_arr {i : Instr} {s t : State} (hlt : s.cnt.toNat < s.arr.toNat) (h : exec i s = .next t) :
    t.cnt.toNat < t.arr.toNat ∨
      ((∃ f, i = .setFreq f ∨ i = .setPeriod f) ∧ t.cnt = s.cnt ∧ t.arr.toNat ≤ s.cnt.toNat) := by
  by_cases hrestart : (∃ f, i = .start f) ∨ isConstructor i = true
  · left
    rcases exec_next h with ⟨_, _, -, rfl⟩ | ⟨_, _, he, rfl⟩
    · exact hlt
    · exact he.restarts hrestart
  obtain ⟨hstart, hc⟩ := not_or.1 hrestart
  have hstart : ∀ f, i ≠ .start f := not_exists.1 hstart
  have hc : isConstructor i = false := by simpa using hc
  cases hr : isRetiming i with
  | true =>
    have hi := (isRetiming_iff.1 hr).resolve_left (not_exists.2 hstart)
    have hcnt : t.cnt = s.cnt := exec_keeps_cnt h hc hstart (by rintro rfl; cases hr)
    rcases Nat.lt_or_ge s.cnt.toNat t.arr.toNat with hlt' | hge
    · exact .inl (hcnt ▸ hlt')
    · exact .inr ⟨hi, hcnt, hge⟩
  | false =>
    left
    obtain ⟨-, -, harr⟩ := exec_keeps_timing h hc hr
    have hcnt : t.cnt = s.cnt ∨ t.cnt = 0 := by
      by_cases hi : i = .resetCounter
      · exact exec_resetCounter_cnt (hi ▸ h)
      · exact .inl (exec_keeps_cnt h hc hstart hi)
    rw [harr]
    rcases hcnt with hcnt | hcnt
    · exact hcnt ▸ hlt
    · rw [hcnt]
      exact Nat.zero_lt_of_lt hlt

/-- R27 item 8 for a tick: below the reload value it counts up to less than it, or rolls over to 0 (R151, R152). -/
theorem tick_cnt_lt_arr {s : State} (hinv : s.Inv) (hlt : s.cnt.toNat < s.arr.toNat) :
    (tick s).cnt.toNat < (tick s).arr.toNat := by
  rw [tick_arr]
  rcases tick_cases s with ht | ⟨-, -, ⟨hbelow, ht⟩ | ⟨-, ht⟩ | ⟨hge, -⟩⟩
  · rwa [ht]
  · have hsucc : (s.cnt + 1).toNat = s.cnt.toNat + 1 := by bv_omega
    have hfits : s.arr.toNat < 2 ^ s.cfg.width.bits := hinv.arr_fits
    rw [ht, countUp_eq (by omega)]
    exact hsucc ▸ hbelow
  · rw [ht, rollover_eq]
    exact Nat.zero_lt_of_lt hlt
  · omega

/-- Settles O50. A restart that answers OK is not declined, so it has had its effect. -/
theorem countStaysBelowReload : Obligations.CountStaysBelowReload := by
  refine ⟨fun i s t _ hlt h => exec_cnt_lt_arr hlt h, fun s t rest hinv hlt hsched hstep => ?_,
    fun i s t _ h hi hok => ?_⟩
  · rw [step_tick (turn_of_sched hsched)] at hstep
    obtain rfl := Host.Outcome.next.inj hstep
    exact tick_cnt_lt_arr hinv.endTurn hlt
  · rcases exec_next h with ⟨st, cause, hst, rfl⟩ | ⟨u, v, he, rfl⟩
    · have hresp : Response.refusal st cause = .okay 0 := by simpa using hok
      exact absurd (congrArg Response.status hresp) hst
    · exact he.restarts hi

/-! ### Policies that define every tick -/

theorem step_keeps_defined {s t : State} (hp : s.cfg.overrun ≠ .fault) (hu : s.undef = false)
    (hstep : step s = .next t) : t.undef = false ∧ t.cfg = s.cfg := by
  rcases step_next hstep with ⟨-, rfl⟩ | ⟨-, rfl⟩ | ⟨-, -, ⟨-, rfl⟩ | ⟨_, rest, -, ⟨_, -, rfl⟩ | ⟨i, -, he⟩⟩⟩
  · exact ⟨rfl, rfl⟩
  · exact ⟨(tick_undef (s := endTurn s) hp).trans hu, tick_cfg _⟩
  · exact ⟨hu, rfl⟩
  · exact ⟨hu, rfl⟩
  · obtain ⟨hcfg, hundef, -, -⟩ := exec_keeps_surroundings he
    exact ⟨hundef.trans hu, hcfg⟩

/-- Settles O51, by induction on the number of steps: a step from UNDEF = 0 answers, and keeps UNDEF = 0 and the
policy. -/
theorem definedPoliciesNeverStop : Obligations.DefinedPoliciesNeverStop := by
  intro k
  induction k with
  | zero => exact fun s _ hu => ⟨s, rfl, hu, rfl⟩
  | succ k ih =>
    intro s hp hu
    obtain ⟨m, hm⟩ := step_answers (s := s) (by simp [hu])
    obtain ⟨hmu, hmcfg⟩ := step_keeps_defined hp hu hm
    obtain ⟨t, ht, htu, htcfg⟩ := ih m (hmcfg ▸ hp) hmu
    exact ⟨t, (run_succ hm).trans ht, htu, htcfg.trans hmcfg⟩

end Sys2Proof.Machine
end

section
/-! SUPPORT. PSC, ARR, FREQ and the snapshot of an unowned, stopped block are seen by nobody (R34, U6): every step
either leaves two such blocks alike or gives both the same state. -/

namespace Sys2Proof.Machine

open Sys2Proof.Claims

/-- Two unowned, stopped blocks that agree but in the registers R34 leaves unspecified. -/
structure IdleAlike (s s' : State) : Prop where
  same : SameButUnspecified s s'
  unowned : s.owner = .unowned
  stopped : s.cen = false

/-- What a run keeps of two such blocks: they are still alike, or have become equal. -/
def Alike (t t' : State) : Prop := t' = t ∨ IdleAlike t t'

/-- Every next state of the first result is matched by the second. -/
def Simulates (r r' : Result) : Prop := ∀ t, r = .next t → ∃ t', r' = .next t' ∧ Alike t t'

theorem Simulates.next {t t' : State} (h : Alike t t') : Simulates (.next t) (.next t') := by
  rintro _ ⟨⟩
  exact ⟨t', rfl, h⟩

theorem Simulates.of_eq {r r' : Result} (h : r' = r) : Simulates r r' := fun t ht => ⟨t, h.trans ht, .inl rfl⟩

theorem Alike.observations {t t' : State} (h : Alike t t') :
    t'.responses = t.responses ∧ t'.trace = t.trace ∧ irq t' = irq t ∧ ∀ c, out c t' = out c t := by
  rcases h with rfl | ⟨same, -, -⟩
  · exact ⟨rfl, rfl, rfl, fun _ => rfl⟩
  · rw [same]
    exact ⟨rfl, rfl, rfl, fun _ => rfl⟩

/-- A constructor overwrites all five registers before it is done. -/
theorem construct_same {s s' : State} (h : SameButUnspecified s s') (o : Owner) (f clk : Word) (div : Byte)
    (psc arr : BitVec 16) :
    startSeq psc arr f (busSeq (acquire o clk div s')) = startSeq psc arr f (busSeq (acquire o clk div s)) ∧
    startSeq psc arr f (enableAll (busSeq (acquire o clk div s'))) =
      startSeq psc arr f (enableAll (busSeq (acquire o clk div s))) := by
  rw [h]
  constructor
  · simp only [startSeq_eq, busSeq_eq, acquire, periphReset]
  · simp only [startSeq_eq, enableAll_busSeq_eq, acquire, periphReset]

namespace IdleAlike

section
variable {s s' : State} (h : IdleAlike s s')
include h

theorem owner_eq : s'.owner = s.owner := by rw [h.same]

theorem turn_eq : turn s' = turn s := by rw [h.same]; rfl

theorem port_eq : s'.port = s.port := by rw [h.same]

theorem undef_eq : s'.undef = s.undef := by rw [h.same]

theorem unowned' : s'.owner = .unowned := h.owner_eq.trans h.unowned

theorem stopped' : s'.cen = false := by rw [h.same]; exact h.stopped

theorem endTurn : IdleAlike (endTurn s) (endTurn s') := ⟨congrArg Machine.endTurn h.same, h.unowned, h.stopped⟩

theorem consume (rest : List Byte) : IdleAlike (consume rest s) (consume rest s') :=
  ⟨congrArg (Machine.consume rest) h.same, h.unowned, h.stopped⟩

theorem answer (x : Response) : IdleAlike (answer x s) (answer x s') :=
  ⟨congrArg (Machine.answer x) h.same, h.unowned, h.stopped⟩

theorem blockReset_eq : blockReset s' = blockReset s := by rw [h.same]; rfl

/-! ### Commands -/

theorem simulates_answer (x : Response) : Simulates (.next (Machine.answer x s)) (.next (Machine.answer x s')) :=
  .next (.inr (h.answer x))

theorem simulates_raise (st : Status) (cause : BitVec 4) : Simulates (raise st cause s) (raise st cause s') :=
  h.simulates_answer _

/-- Every admitted command is refused, in both blocks. -/
theorem simulates_admitIn (modes : List Owner) (k k' : Result) : Simulates (admitIn modes s k) (admitIn modes s' k') := by
  rw [admitIn_unowned k h.unowned, admitIn_unowned k' h.unowned']
  exact h.simulates_answer _

theorem simulates_onlyUnowned {k k' : Result} (hk : Simulates k k') :
    Simulates (onlyUnowned s k) (onlyUnowned s' k') := by
  rwa [onlyUnowned, onlyUnowned, if_pos h.unowned, if_pos h.unowned']

/-- The calculator reads the operands given, not the block. -/
theorem simulates_withTiming (f clk : Word) (div : Byte) {k k' : BitVec 16 → BitVec 16 → Result}
    (hk : ∀ psc arr, Simulates (k psc arr) (k' psc arr)) :
    Simulates (withTiming f clk div s k) (withTiming f clk div s' k') := by
  unfold withTiming
  cases computeTiming f clk div with
  | pair psc arr => exact hk psc arr
  | refused e => exact h.simulates_raise _ _

theorem simulates_exec (i : Instr) : Simulates (exec i s) (exec i s') := by
  cases i with
  | compute f clk div => exact h.simulates_withTiming f clk div fun _ _ => h.simulates_answer _
  | newTimer f clk div =>
    refine h.simulates_onlyUnowned (h.simulates_withTiming f clk div fun psc arr => .of_eq ?_)
    rw [(construct_same h.same .timer f clk div psc arr).1]
  | newPwm f clk div pv =>
    refine h.simulates_onlyUnowned ?_
    split
    · split
      · refine h.simulates_withTiming f clk div fun psc arr => .of_eq ?_
        rw [(construct_same h.same .pwm f clk div psc arr).2]
      · exact h.simulates_raise _ _
    · exact h.simulates_raise _ _
  | listen ev | unlisten ev =>
    cases ev
    exact h.simulates_admitIn _ _ _
  | free | start | setFreq | pause | resume | resetCounter | counter | wait | clearUif | enable | disable | getDuty
  | setDuty | getMaxDuty | setPeriod | getPeriod => exact h.simulates_admitIn _ _ _

theorem simulates_execWord (w : CommandWord) : Simulates (execWord w s) (execWord w s') := by
  unfold execWord
  cases decodeWord w with
  | command i => exact h.simulates_exec i
  | rejected e => exact h.simulates_raise _ _

/-! ### Steps -/

theorem simulates_hostTurn : Simulates (hostTurn s) (hostTurn s') := by
  cases hu : s.undef with
  | true =>
    rw [hostTurn_undef hu]
    rintro _ ⟨⟩
  | false =>
    have hu' : s'.undef = false := h.undef_eq.trans hu
    cases hp : takeCommand s.port with
    | none =>
      rw [hostTurn_waits hu hp, hostTurn_waits hu' (by rwa [h.port_eq])]
      exact .next (.inr h)
    | some wr =>
      obtain ⟨w, rest⟩ := wr
      rw [hostTurn_word hu hp, hostTurn_word hu' (by rwa [h.port_eq])]
      exact (h.consume rest).simulates_execWord w

theorem simulates_step : Simulates (step s) (step s') := by
  cases ht : turn s with
  | host =>
    rw [step_host ht, step_host (h.turn_eq.trans ht)]
    exact h.endTurn.simulates_hostTurn
  | tick =>
    rw [step_tick ht, step_tick (h.turn_eq.trans ht), tick_disabled (.inl h.endTurn.stopped),
      tick_disabled (.inl h.endTurn.stopped')]
    exact .next (.inr h.endTurn)
  | rst =>
    rw [step_rst ht, step_rst (h.turn_eq.trans ht), h.endTurn.blockReset_eq]
    exact .of_eq rfl

end

end IdleAlike

theorem Alike.simulates_step {s s' : State} (h : Alike s s') : Simulates (step s) (step s') := by
  rcases h with rfl | h
  · exact .of_eq rfl
  · exact h.simulates_step

theorem Alike.simulates_run {s s' : State} (h : Alike s s') (k : Nat) :
    Simulates (Host.Core.run Sys2Proof.core k s) (Host.Core.run Sys2Proof.core k s') := by
  induction k generalizing s s' with
  | zero => exact .next h
  | succ k ih =>
    intro t ht
    obtain ⟨m, hm, hrun⟩ := run_succ_next ht
    obtain ⟨m', hm', halike⟩ := h.simulates_step m hm
    rw [run_succ hm']
    exact ih halike t hrun

/-- Settles O55, by the simulation of one run by the other: alike or equal blocks show the same. -/
theorem unspecifiedRegistersUnobservable : Obligations.UnspecifiedRegistersUnobservable := by
  intro k s s' t same unowned stopped hrun
  obtain ⟨t', hrun', halike⟩ := Alike.simulates_run (.inr ⟨same, unowned, stopped⟩) k t hrun
  exact ⟨t', hrun', halike.observations⟩

end Sys2Proof.Machine
end

section
/-! SUPPORT. The register block as memory (R40): what a read returns after a write to the same register and to another,
and that writing back what was read changes nothing. -/

namespace Sys2Proof.Machine

open Sys2Proof.Claims

/-! ### The defined bits of the written word -/

theorem flagWord_eq_setWidth (b : Bool) : flagWord b = (BitVec.ofBool b).setWidth 32 := by cases b <;> rfl

theorem flagWord_getLsbD_zero (v : Word) : flagWord (v.getLsbD 0) = v &&& 1 :=
  (flagWord_eq_setWidth _).trans BitVec.and_one_eq_setWidth_ofBool_getLsbD.symm

theorem truncW_eq_and (w : Width) (v : Word) : truncW w v = v &&& BitVec.ofNat 32 (2 ^ w.bits - 1) := by
  cases w with
  | w16 => rfl
  | w32 => exact BitVec.and_allOnes.symm

theorem setWidth_half_eq_and (v : Word) : (v.setWidth 16).setWidth 32 = v &&& 0xFFFF := by
  apply BitVec.eq_of_toNat_eq
  rw [toNat_half, BitVec.toNat_setWidth, BitVec.toNat_and]
  exact (Nat.and_two_pow_sub_one_eq_mod v.toNat 16).symm

/-! ### Reads after writes -/

theorem memRead_memWrite_same (r : RegIdx) (v : Word) (s : State) :
    memRead r (memWrite r v s) = v &&& definedBits s.cfg.width r := by
  cases r with
  | cr | ier | sr => exact flagWord_getLsbD_zero v
  | ccmr1 | ccmr2 => exact modeWord_withModeByte _ _ v
  | cnt | arr => exact truncW_eq_and s.cfg.width v
  | psc => exact setWidth_half_eq_and v
  | ccr c =>
    rw [memRead, memWrite, chan_setChan]
    exact truncW_eq_and s.cfg.width v

/-- A write to CCR[c] touches neither the channel's mode fields nor another channel; any other write touches its own
register's fields alone. -/
theorem memRead_memWrite_ne {r r' : RegIdx} (h : r' ≠ r) (v : Word) (s : State) :
    memRead r' (memWrite r v s) = memRead r' s := by
  cases r with
  | ccr c =>
    cases r' with
    | ccr d => exact congrArg Chan.ccr (chan_setChan_ne s _ fun hd => h (congrArg RegIdx.ccr hd))
    | _ => cases c <;> rfl
  | _ =>
    cases r' with
    | ccr d => cases d <;> rfl
    | _ => simp [memRead, memWrite] at h ⊢

/-! ### Writing back what was read -/

theorem setChan_chan_self (s : State) (c : Channel) : s.setChan c (s.chan c) = s := by cases c <;> rfl

theorem memWrite_memRead {s : State} (h : s.Inv) (r : RegIdx) : memWrite r (memRead r s) s = s := by
  cases r with
  | cr | ier | sr => simp [memRead, memWrite]
  | ccmr1 => exact memWrite_modeWord_low rfl rfl
  | ccmr2 => exact memWrite_modeWord_high rfl rfl
  | cnt => rw [memRead, memWrite, truncW_of_fits h.cnt_fits]
  | psc => simp [memRead, memWrite]
  | arr => rw [memRead, memWrite, truncW_of_fits h.arr_fits]
  | ccr c =>
    obtain ⟨hccr, -⟩ := h.chan_fits c
    rw [memRead, memWrite, truncW_of_fits hccr]
    exact setChan_chan_self s c

/-- Settles O58. The reserved bits of a good state read 0, since its registers already hold what writing back the word
read would store. -/
theorem registerReadAfterWrite : Obligations.RegisterReadAfterWrite := by
  refine ⟨fun r v s => ⟨memRead_memWrite_same r v s, fun _ hne => memRead_memWrite_ne hne v s⟩, fun r s h => ?_⟩
  calc memRead r s &&& definedBits s.cfg.width r
      = memRead r (memWrite r (memRead r s) s) := (memRead_memWrite_same r (memRead r s) s).symm
    _ = memRead r s := by rw [memWrite_memRead h]

end Sys2Proof.Machine
end

section
/-! SUPPORT. The host's turn on a whole and on an incomplete command word (R42, R46, R51). -/

namespace Sys2Proof.Machine

/-- Settles O6: the twelve bytes are taken from the port as that word, which decodes to the command. -/
theorem stepExecutesDecodedCommand : Obligations.StepExecutesDecodedCommand := by
  intro s w rest i ht hu hport hd
  have htake : takeCommand s.port = some (w, rest) := by rw [hport, takeCommand_commandBytes]
  exact step_command ht hu htake hd

/-- Settles O7: fewer than twelve bytes hold no command word, so the host's turn waits. -/
theorem incompleteWordWaits : Obligations.IncompleteWordWaits := fun _ ht hu hlen =>
  step_waits ht hu (takeCommand_short hlen)

end Sys2Proof.Machine
end

section
/-! SUPPORT. Decoding undoes encoding and encoding undoes decoding (spec/30_encoding.md R57, R62, R63). -/

namespace Sys2Proof

open Sys2Proof.Laws

/-- The fields a command is encoded with decode to it, for every command. -/
theorem decodeFields_encodeFields (i : Instr) : decodeFields (encodeFields i) = .command i := by
  cases i with
  | compute => exact FieldRoundTrip.compute ..
  | newTimer => exact FieldRoundTrip.newTimer ..
  | newPwm => exact FieldRoundTrip.newPwm ..
  | free => exact FieldRoundTrip.free
  | start => exact FieldRoundTrip.start _
  | setFreq => exact FieldRoundTrip.setFreq _
  | pause => exact FieldRoundTrip.pause
  | resume => exact FieldRoundTrip.resume
  | resetCounter => exact FieldRoundTrip.resetCounter
  | counter => exact FieldRoundTrip.counter
  | wait => exact FieldRoundTrip.wait
  | clearUif => exact FieldRoundTrip.clearUif
  | listen => exact FieldRoundTrip.listen _
  | unlisten => exact FieldRoundTrip.unlisten _
  | enable => exact FieldRoundTrip.enable _
  | disable => exact FieldRoundTrip.disable _
  | getDuty => exact FieldRoundTrip.getDuty _
  | setDuty => exact FieldRoundTrip.setDuty ..
  | getMaxDuty => exact FieldRoundTrip.getMaxDuty
  | setPeriod => exact FieldRoundTrip.setPeriod _
  | getPeriod => exact FieldRoundTrip.getPeriod

@[simp] theorem decodeWord_encode (i : Instr) : decodeWord (encode i) = .command i := by
  rw [decodeWord, encode, Fields.ofWord_word, decodeFields_encodeFields]

/-- Settles O1: the bytes on the stream are the word again, the word its fields, the fields the command. -/
theorem decodeOfEncodedBytes : Obligations.DecodeOfEncodedBytes := fun i rest =>
  ⟨by rw [decode_commandBytes, decodeWord_encode], takeCommand_commandBytes _ rest⟩

/-- The fields of `x` that a format uses, and zero for all others: what a decoder that ignored the must-be-zero fields
could still tell of `x`. -/
def Fields.keep (u : Uses) (x : Fields) : Fields where
  op := x.op
  ch := bif u.ch then x.ch else 0
  ev := bif u.ev then x.ev else 0
  div := bif u.div then x.div else 0
  pv := bif u.pv then x.pv else 0
  zero := 0
  arg := bif u.arg then x.arg else 0
  clk := bif u.clk then x.clk else 0

theorem cond_zero_of_unused {n : Nat} {used : Bool} {v : BitVec n} (h : used = true ∨ v = 0) :
    (bif used then v else 0) = v := by
  cases used with
  | true => rfl
  | false => exact (h.resolve_left nofun).symm

/-- The check of the must-be-zero fields (R63 step 2): nothing of the word is lost by keeping only the used fields. -/
theorem Fields.keep_of_unusedZero {u : Uses} {x : Fields} (h : unusedZero u x = true) : x.keep u = x := by
  simp only [unusedZero, Bool.and_eq_true, Bool.or_eq_true, beq_iff_eq] at h
  obtain ⟨⟨⟨⟨⟨⟨hch, hev⟩, hdiv⟩, hpv⟩, harg⟩, hclk⟩, hzero⟩ := h
  simp only [Fields.keep, cond_zero_of_unused, hch, hev, hdiv, hpv, harg, hclk, ← hzero]

/-- If a command is encoded with an opcode and the fields of `x` its format uses, then decoding `x` to it loses nothing. -/
theorem decodeAs_lossless {u : Uses} {x : Fields} {i j : Instr} (h : decodeAs u x i = .command j)
    (hop : x.op.toNat = (encodeFields i).op.toNat)
    (hi : encodeFields i = { x.keep u with op := (encodeFields i).op }) : encodeFields j = x := by
  obtain ⟨hz, rfl⟩ := decodeAs_command h
  rw [hi, ← BitVec.eq_of_toNat_eq hop]
  exact Fields.keep_of_unusedZero hz

/-- Format E with its one legal event is format N: EV = 0 as well (R63 step 3). -/
theorem decodeAs_of_decodeEvent {x : Fields} {i : Event → Instr} {j : Instr} (h : decodeEvent x i = .command j) :
    decodeAs formatN x (i .update) = .command j := by
  obtain ⟨hz, hev, rfl⟩ := decodeEvent_command h
  have hn : unusedZero formatN x = true := by simpa [unusedZero, formatN, formatE, hev] using hz
  rw [decodeAs, if_pos hn]

theorem encodeFields_of_decodeFields {x : Fields} {i : Instr} (h : decodeFields x = .command i) : encodeFields i = x := by
  unfold decodeFields at h
  split at h
  -- LISTEN and UNLISTEN: the event is legal
  case h_13 hop | h_14 hop => exact decodeAs_lossless (decodeAs_of_decodeEvent h) hop rfl
  -- ENABLE, DISABLE, GET_DUTY and SET_DUTY: the channel is read from its field
  case h_15 hop | h_16 hop | h_17 hop | h_18 hop =>
    exact decodeAs_lossless h hop (by simp [encodeFields, fieldsN, Fields.keep, formatC, formatCV])
  -- no opcode
  case h_22 => cases h
  all_goals exact decodeAs_lossless h ‹_› rfl

/-- Settles O2: no field of the word is dropped, and the word is made of its fields. -/
theorem encodeOfDecodedWord : Obligations.EncodeOfDecodedWord := fun w i h => by
  rw [encode, encodeFields_of_decodeFields h, Fields.word_ofWord]

end Sys2Proof
end

section
/-! SUPPORT. The rows of the opcode table (masks and matches, spec/opcode_table.json) are the formats of the commands
(spec/30_encoding.md R57), so the decoder accepts what the table owns. -/

namespace Sys2Proof

/-- The format of a command (R57, R62). -/
def Instr.uses : Instr → Uses
  | .compute .. | .newTimer .. => formatK
  | .newPwm .. => formatKP
  | .start _ | .setFreq _ | .setPeriod _ => formatF
  | .listen _ | .unlisten _ => formatE
  | .enable _ | .disable _ | .getDuty _ => formatC
  | .setDuty .. => formatCV
  | .free | .pause | .resume | .resetCounter | .counter | .wait | .clearUif | .getMaxDuty | .getPeriod => formatN

/-- All bits of a field that a mask fixes, none of a field the format uses. -/
def fixedBits (n : Nat) (used : Bool) : BitVec n := bif used then 0 else BitVec.allOnes n

/-- The mask of a format: OP and every must-be-zero field (R57). -/
def Uses.mask (u : Uses) : Fields where
  op := fixedBits 5 false
  ch := fixedBits 2 u.ch
  ev := fixedBits 1 u.ev
  div := fixedBits 8 u.div
  pv := fixedBits 4 u.pv
  zero := fixedBits 12 false
  arg := fixedBits 32 u.arg
  clk := fixedBits 32 u.clk

/-- The row of the opcode table a command belongs to. -/
def Instr.row (i : Instr) : OpcodeRow where
  mnemonic := i.mnemonic
  mask := i.uses.mask.word
  pattern := (fieldsN (encodeFields i).op).word

/-- One command of each row, its operands zero. -/
def specimens : List Instr :=
  [ .compute 0 0 0, .newTimer 0 0 0, .newPwm 0 0 0 0, .free, .start 0, .setFreq 0, .pause, .resume, .resetCounter,
    .counter, .wait, .clearUif, .listen .update, .unlisten .update, .enable .ch1, .disable .ch1, .getDuty .ch1,
    .setDuty .ch1 0, .getMaxDuty, .setPeriod 0, .getPeriod ]

theorem opcodeTable_eq_rows : opcodeTable = specimens.map Instr.row := by decide

/-- A command's row does not depend on its operands: it is the one its constructor's place in the type says. -/
theorem specimens_row_getElem? (i : Instr) : (specimens.map Instr.row)[i.ctorIdx]? = some i.row := by cases i <;> rfl

theorem row_mem_opcodeTable (i : Instr) : i.row ∈ opcodeTable := by
  rw [opcodeTable_eq_rows]
  exact List.mem_of_getElem? (specimens_row_getElem? i)

theorem exists_row_of_mem {r : OpcodeRow} (h : r ∈ opcodeTable) : ∃ i : Instr, i.row = r := by
  rw [opcodeTable_eq_rows, List.mem_map] at h
  obtain ⟨i, -, hi⟩ := h
  exact ⟨i, hi⟩

/-- A mask bit field by field: masking a field the format uses asks nothing, masking any other asks for zero. -/
theorem and_fixedBits_eq_zero_iff {n : Nat} {used : Bool} {v : BitVec n} :
    v &&& fixedBits n used = 0 ↔ used = true ∨ v = 0 := by
  cases used <;> simp [fixedBits]

/-- The bits two words have in common, field by field. -/
def Fields.and (x m : Fields) : Fields where
  op := x.op &&& m.op
  ch := x.ch &&& m.ch
  ev := x.ev &&& m.ev
  div := x.div &&& m.div
  pv := x.pv &&& m.pv
  zero := x.zero &&& m.zero
  arg := x.arg &&& m.arg
  clk := x.clk &&& m.clk

theorem Fields.ofWord_and (w m : CommandWord) : Fields.ofWord (w &&& m) = (Fields.ofWord w).and (Fields.ofWord m) := by
  simp only [Fields.ofWord, Fields.and, BitVec.extractLsb'_and]

theorem Fields.ofWord_eq_iff {w : CommandWord} {x : Fields} : Fields.ofWord w = x ↔ w = x.word :=
  ⟨fun h => by rw [← h, Fields.word_ofWord], fun h => by rw [h, Fields.ofWord_word]⟩

/-- Masking leaves the bare opcode exactly if the opcode is that one and the must-be-zero fields are zero. -/
theorem and_mask_eq_iff {u : Uses} {x : Fields} {op : BitVec 5} :
    x.and u.mask = fieldsN op ↔ x.op = op ∧ unusedZero u x = true := by
  have hop : x.op &&& fixedBits 5 false = x.op := BitVec.and_allOnes
  simp only [Fields.and, Uses.mask, fieldsN, Fields.mk.injEq, hop, and_fixedBits_eq_zero_iff, unusedZero,
    Bool.and_eq_true, Bool.or_eq_true, beq_iff_eq, Bool.false_eq_true, false_or, and_assoc, and_comm (a := x.zero = 0)]

/-- What a row's mask and match ask of a word: the row's opcode, and zero in every must-be-zero field (R57, R63 step 2). -/
theorem row_owns_iff (i : Instr) (w : CommandWord) :
    i.row.owns w = true ↔ (Fields.ofWord w).op = (encodeFields i).op ∧ unusedZero i.uses (Fields.ofWord w) = true := by
  rw [OpcodeRow.owns, beq_iff_eq, Instr.row, ← Fields.ofWord_eq_iff, Fields.ofWord_and, Fields.ofWord_word, and_mask_eq_iff]

/-- The second check of well-formedness (R63 step 3) is about the fields OP and EV. -/
theorem eventLegal_iff (w : CommandWord) :
    eventLegal w = true ↔
      ((Fields.ofWord w).op = 0x0D ∨ (Fields.ofWord w).op = 0x0E → (Fields.ofWord w).ev = 0) := by
  have hev : w.extractLsb' 7 1 = 0 ↔ w.getLsbD 7 = false := by
    rw [show w.getLsbD 7 = (w.extractLsb' 7 1).getLsbD 0 by simp]
    generalize w.extractLsb' 7 1 = b
    revert b
    decide
  simp only [eventLegal, Fields.ofWord, hev, Bool.not_eq_true', Bool.and_eq_false_imp, Bool.or_eq_true, beq_iff_eq]

/-- Every command is encoded with zero in the fields its format does not use. -/
theorem unusedZero_encodeFields (i : Instr) : unusedZero i.uses (encodeFields i) = true := by cases i <;> rfl

theorem encodeFields_ev (i : Instr) : (encodeFields i).ev = 0 := by
  cases i with
  | listen ev | unlisten ev => cases ev; rfl
  | _ => rfl

theorem row_owns_encode (i : Instr) : i.row.owns (encode i) = true := by
  rw [row_owns_iff, encode, Fields.ofWord_word]
  exact ⟨rfl, unusedZero_encodeFields i⟩

theorem eventLegal_encode (i : Instr) : eventLegal (encode i) = true := by
  rw [eventLegal_iff, encode, Fields.ofWord_word]
  exact fun _ => encodeFields_ev i

theorem decodeAs_of_unusedZero {u : Uses} {x : Fields} (h : unusedZero u x = true) (i : Instr) :
    decodeAs u x i = .command i := if_pos h

theorem decodeEvent_of_unusedZero {x : Fields} (h : unusedZero formatE x = true) (hev : x.ev = 0) (i : Event → Instr) :
    decodeEvent x i = .command (i .update) := by
  rw [decodeEvent, if_pos h, if_pos hev]

/-- The decoder accepts what has the opcode, the must-be-zero fields and the event of some command. -/
theorem decodeFields_of_format {i : Instr} {x : Fields} (hop : x.op = (encodeFields i).op) (hz : unusedZero i.uses x = true)
    (hev : x.op = 0x0D ∨ x.op = 0x0E → x.ev = 0) : ∃ j, decodeFields x = .command j ∧ j.mnemonic = i.mnemonic := by
  obtain ⟨op, ch, ev, div, pv, zero, arg, clk⟩ := x
  dsimp only at hop hev
  subst hop
  cases i with
  | listen => exact ⟨_, decodeEvent_of_unusedZero hz (hev (.inl rfl)) .listen, rfl⟩
  | unlisten => exact ⟨_, decodeEvent_of_unusedZero hz (hev (.inr rfl)) .unlisten, rfl⟩
  | _ => exact ⟨_, decodeAs_of_unusedZero hz _, rfl⟩

/-- A word a row of the table owns, with a legal event, decodes to a command of that row. -/
theorem decodeWord_of_owned {r : OpcodeRow} {w : CommandWord} (hr : r ∈ opcodeTable) (hown : r.owns w = true)
    (hev : eventLegal w = true) : ∃ i, decodeWord w = .command i ∧ i.mnemonic = r.mnemonic := by
  obtain ⟨i, rfl⟩ := exists_row_of_mem hr
  obtain ⟨hop, hz⟩ := (row_owns_iff i w).1 hown
  exact decodeFields_of_format hop hz ((eventLegal_iff w).1 hev)

theorem wellFormed_iff (w : CommandWord) :
    WellFormed w = true ↔ (∃ r ∈ opcodeTable, r.owns w = true) ∧ eventLegal w = true := by
  rw [WellFormed, Bool.and_eq_true, inTable, List.any_eq_true]

theorem wellFormed_encode (i : Instr) : WellFormed (encode i) = true :=
  (wellFormed_iff _).2 ⟨⟨i.row, row_mem_opcodeTable i, row_owns_encode i⟩, eventLegal_encode i⟩

theorem decodes_iff_wellFormed (w : CommandWord) : (∃ i, decodeWord w = .command i) ↔ WellFormed w = true := by
  constructor
  · rintro ⟨i, h⟩
    rw [← encodeOfDecodedWord w i h]
    exact wellFormed_encode i
  · intro h
    obtain ⟨⟨r, hr, hown⟩, hev⟩ := (wellFormed_iff w).1 h
    obtain ⟨i, hi, -⟩ := decodeWord_of_owned hr hown hev
    exact ⟨i, hi⟩

/-- What is not well formed the decoder rejects by name. -/
theorem decodeWord_rejected_of_not_wellFormed {w : CommandWord} (h : WellFormed w = false) :
    ∃ e, decodeWord w = .rejected e := by
  cases hd : decodeWord w with
  | rejected e => exact ⟨e, rfl⟩
  | command i =>
    have hw := (decodes_iff_wellFormed w).1 ⟨i, hd⟩
    rw [h] at hw
    cases hw

/-- Settles O3: what decodes is the word of its command, which the command's own row owns; and a row asks of a word just
what the decoder asks of its fields. -/
theorem decoderAgreesWithOpcodeTable : Obligations.DecoderAgreesWithOpcodeTable := by
  refine fun w => ⟨decodes_iff_wellFormed w, fun i h => ?_, fun r hr => decodeWord_of_owned hr⟩
  rw [← encodeOfDecodedWord w i h]
  exact ⟨i.row, row_mem_opcodeTable i, row_owns_encode i, rfl⟩

end Sys2Proof
end

section
/-! SUPPORT. What leaves the block after a command word: one response, for a command (spec/30_encoding.md R55) as for an
illegal word (R66), and the fields of its word (R60). -/

namespace Sys2Proof.Machine

/-- Settles O4: a word that is not well formed is rejected, and every rejection is answered alike (R66). -/
theorem illegalWordAnsweredWithoutEffect : Obligations.IllegalWordAnsweredWithoutEffect := by
  intro s w rest ht hu hport hw
  obtain ⟨e, hd⟩ := decodeWord_rejected_of_not_wellFormed hw
  have htake : takeCommand s.port = some (w, rest) := by rw [hport, takeCommand_commandBytes]
  exact step_rejected ht hu htake hd

/-- No effect of a command touches the record of responses; only its answer does. -/
theorem Effect.responses_eq {i : Instr} {s u : State} (he : Effect i s u) : u.responses = s.responses := by
  cases he with
  | enable _ hu | disable _ hu => simp [hu, activate]
  | _ => simp

/-- Settles O20: every command answers a next state, and what it did, refusal or effect, is followed by one response. -/
theorem everyCommandIsAnsweredOnce : Obligations.EveryCommandIsAnsweredOnce := by
  intro i s
  obtain ⟨t, ht⟩ := exec_answers i s
  rcases exec_next ht with ⟨st, cause, -, rfl⟩ | ⟨u, v, he, rfl⟩
  · exact ⟨_, .refusal st cause, ht, rfl⟩
  · exact ⟨_, .okay v, ht, by rw [answer_responses, he.responses_eq]⟩

section
open BitVec

/-- The three fields of a response, read back from its word (R60). -/
theorem Response.word_fields (x : Response) :
    x.word.extractLsb' 0 4 = x.status.code ∧ x.word.extractLsb' 4 4 = x.cause ∧ x.word.extractLsb' 8 24 = 0 ∧
      x.word.extractLsb' 32 32 = x.value := by
  simp only [Response.word]
  refine ⟨extractLsb'_append_eq_right, ?_, ?_, ?_⟩
  · rw [extractLsb'_append_eq_of_le (by decide)]
    exact extractLsb'_append_eq_right
  · repeat rw [extractLsb'_append_eq_of_le (by decide)]
    exact extractLsb'_append_eq_right
  · repeat rw [extractLsb'_append_eq_of_le (by decide)]
    exact extractLsb'_eq_self

end

/-- Settles O9: the word is the four fields side by side, and each status has its code. -/
theorem responseWordFields : Obligations.ResponseWordFields := by
  intro x
  obtain ⟨hstatus, hrest⟩ := x.word_fields
  refine ⟨?_, hrest⟩
  rw [hstatus]
  cases x.status <;> rfl

/-- Settles O5: each word is a closed term the decoder evaluates. -/
theorem specWordsDecode : Obligations.SpecWordsDecode := by
  unfold Obligations.SpecWordsDecode
  decide

end Sys2Proof.Machine
end

section
/-! SUPPORT. The calculator's checks and formulas in the terms of the statements: the total tick count, its prescaler and
its auto-reload (spec/40_calculator.md R80 to R91), and the command COMPUTE. -/

namespace Sys2Proof.Machine

open Sys2Proof.Claims

/-! ### The prescaler and the auto-reload of a total (R84, R85) -/

/-- The prescaler is the least one whose period 65536 ticks long covers the total (R88 item 2). -/
theorem prescalerOf_le_iff (total p : Nat) : prescalerOf total ≤ p ↔ total ≤ (p + 1) * 65536 := by
  unfold prescalerOf
  omega

theorem le_reloadOf_iff (total n : Nat) : n ≤ reloadOf total ↔ n * (prescalerOf total + 1) ≤ total :=
  Nat.le_div_iff_mul_le (Nat.succ_pos _)

/-- The period is the total less a remainder of at most PSC ticks (R88 item 4). -/
theorem period_bounds (total : Nat) :
    (prescalerOf total + 1) * reloadOf total ≤ total ∧
      total ≤ (prescalerOf total + 1) * reloadOf total + prescalerOf total := by
  have hdiv := Nat.div_add_mod total (prescalerOf total + 1)
  have hmod : total % (prescalerOf total + 1) < prescalerOf total + 1 := Nat.mod_lt _ (Nat.succ_pos _)
  unfold reloadOf
  omega

theorem reloadOf_le (total : Nat) : reloadOf total ≤ 65536 :=
  Nat.div_le_of_le_mul ((prescalerOf_le_iff total _).1 (Nat.le_refl _))

/-- The auto-reload reaches 65536 only where the least prescaler's longest period is just the total (R88 item 3). -/
theorem le_reloadOf_iff_multiple {total : Nat} (h : 1 ≤ total) : 65536 ≤ reloadOf total ↔ total % 65536 = 0 := by
  rw [le_reloadOf_iff, prescalerOf]
  omega

/-- A prescaler in use leaves an auto-reload in the upper half (R88 item 5). -/
theorem half_le_reloadOf {total : Nat} (h : 1 ≤ prescalerOf total) : 32768 ≤ reloadOf total := by
  rw [le_reloadOf_iff]
  unfold prescalerOf at h ⊢
  omega

/-- A total that fits 16 bits is its own auto-reload (R88 item 6). -/
theorem prescaler_unused {total : Nat} (h : total ≤ 65535) : prescalerOf total = 0 ∧ reloadOf total = total := by
  have hp : prescalerOf total = 0 := Nat.le_zero.1 ((prescalerOf_le_iff total 0).2 (by omega))
  exact ⟨hp, by rw [reloadOf, hp, Nat.zero_add, Nat.div_one]⟩

/-! ### The checks of `compute_timing`, one by one -/

theorem timerClock_eq_inputClock (clk : Word) (div : Byte) : timerClock clk div = inputClock clk div := by
  unfold timerClock inputClock
  split <;> omega

theorem timingOfTotal_prescaler {total : Nat} (h : 65535 < prescalerOf total) :
    timingOfTotal total = .refused .prescaler := if_pos h

theorem timingOfTotal_autoReload {total : Nat} (hp : prescalerOf total ≤ 65535) (hr : 65535 < reloadOf total) :
    timingOfTotal total = .refused .autoReload := (if_neg (Nat.not_lt.2 hp)).trans (if_pos hr)

theorem timingOfTotal_of_fits {total : Nat} (hp : prescalerOf total ≤ 65535) (hr : reloadOf total ≤ 65535) :
    timingOfTotal total = .pair (BitVec.ofNat 16 (prescalerOf total)) (BitVec.ofNat 16 (reloadOf total)) :=
  (if_neg (Nat.not_lt.2 hp)).trans (if_neg (Nat.not_lt.2 hr))

section
variable {f clk : Word} {div : Byte}

theorem computeTiming_operand (hdiv : div = 0) : computeTiming f clk div = .refused .operand :=
  if_neg (by simp [hdiv])

theorem computeTiming_zeroFrequency (hdiv : div ≠ 0) (hf : f = 0) :
    computeTiming f clk div = .refused .zeroFrequency := by
  rw [computeTiming, if_pos ((divLegal_iff div).2 hdiv), if_pos hf]

/-- With legal operands the total tick count decides (R82, R83 b). -/
theorem computeTiming_legal (hdiv : div ≠ 0) (hf : f ≠ 0) :
    computeTiming f clk div =
      if totalCount f clk div < 1 then .refused .aboveClock else timingOfTotal (totalCount f clk div) := by
  rw [computeTiming, if_pos ((divLegal_iff div).2 hdiv), if_neg hf, timerClock_eq_inputClock]
  rfl

theorem computeTiming_aboveClock (hdiv : div ≠ 0) (hf : f ≠ 0) (ht : totalCount f clk div < 1) :
    computeTiming f clk div = .refused .aboveClock := by
  rw [computeTiming_legal hdiv hf, if_pos ht]

theorem computeTiming_total (hdiv : div ≠ 0) (hf : f ≠ 0) (ht : 1 ≤ totalCount f clk div) :
    computeTiming f clk div = timingOfTotal (totalCount f clk div) := by
  rw [computeTiming_legal hdiv hf, if_neg (Nat.not_lt.2 ht)]

/-- Everything a returned pair says of the operands, in terms of the total tick count. -/
theorem computeTiming_pair_total {psc arr : BitVec 16} (h : computeTiming f clk div = .pair psc arr) :
    div ≠ 0 ∧ f ≠ 0 ∧ 1 ≤ totalCount f clk div ∧ psc.toNat = prescalerOf (totalCount f clk div) ∧
      arr.toNat = reloadOf (totalCount f clk div) := by
  rw [totalCount, ← timerClock_eq_inputClock]
  exact computeTiming_pair h

/-! ### Accepted operands and the causes of a refusal (R88 item 7, R172) -/

/-- Accepted operands pass the checks of the prescaler and the auto-reload. -/
theorem accepted_fits (h : Accepted f clk div) :
    prescalerOf (totalCount f clk div) ≤ 65535 ∧ reloadOf (totalCount f clk div) ≤ 65535 := by
  obtain ⟨-, -, ht, hlt, hm⟩ := h
  have hr := mt (le_reloadOf_iff_multiple ht).1 hm
  exact ⟨(prescalerOf_le_iff _ _).2 (by omega), by omega⟩

theorem computeTiming_accepted (h : Accepted f clk div) :
    computeTiming f clk div =
      .pair (BitVec.ofNat 16 (prescalerOf (totalCount f clk div)))
        (BitVec.ofNat 16 (reloadOf (totalCount f clk div))) := by
  obtain ⟨hp, hr⟩ := accepted_fits h
  obtain ⟨hdiv, hf, ht, -, -⟩ := h
  rw [computeTiming_total hdiv hf ht, timingOfTotal_of_fits hp hr]

/-- A pair is returned for accepted operands only: its two halves are 16-bit values. -/
theorem accepted_of_pair {psc arr : BitVec 16} (h : computeTiming f clk div = .pair psc arr) : Accepted f clk div := by
  obtain ⟨hdiv, hf, ht, hpsc, harr⟩ := computeTiming_pair_total h
  have hle : totalCount f clk div ≤ (65535 + 1) * 65536 :=
    (prescalerOf_le_iff _ _).1 (hpsc ▸ Nat.le_of_lt_succ psc.isLt)
  have hm : totalCount f clk div % 65536 ≠ 0 :=
    mt (le_reloadOf_iff_multiple ht).2 (harr ▸ Nat.not_le.2 arr.isLt)
  exact ⟨hdiv, hf, ht, by omega, hm⟩

/-- The conditions of a CAUSE lead to the refusal reported with it. -/
theorem computeTiming_rangeCause {k : BitVec 4} (h : RangeCause f clk div k) :
    ∃ e : TimingError, computeTiming f clk div = .refused e ∧ e.status = .errFreqRange ∧ e.cause = k := by
  obtain ⟨hdiv, ⟨rfl, hf⟩ | ⟨rfl, hf, ht⟩ | ⟨rfl, hf, ht⟩ | ⟨rfl, hf, ht, hle, hm⟩⟩ := h
  · exact ⟨_, computeTiming_zeroFrequency hdiv hf, rfl, rfl⟩
  · exact ⟨_, computeTiming_aboveClock hdiv hf ht, rfl, rfl⟩
  · have hp : 65535 < prescalerOf (totalCount f clk div) :=
      Nat.not_le.1 (mt (prescalerOf_le_iff _ _).1 (by omega))
    exact ⟨_, (computeTiming_total hdiv hf (by omega)).trans (timingOfTotal_prescaler hp), rfl, rfl⟩
  · have hp : prescalerOf (totalCount f clk div) ≤ 65535 := (prescalerOf_le_iff _ _).2 (by omega)
    have hr : 65535 < reloadOf (totalCount f clk div) := (le_reloadOf_iff_multiple ht).2 hm
    exact ⟨_, (computeTiming_total hdiv hf ht).trans (timingOfTotal_autoReload hp hr), rfl, rfl⟩

end

/-! ### The statements about `compute_timing` -/

/-- Settles O10, clause by clause. -/
theorem computeTimingFollowsItsChecks : Obligations.ComputeTimingFollowsItsChecks := fun _ _ _ =>
  ⟨computeTiming_operand, computeTiming_zeroFrequency, fun hdiv hf =>
    ⟨computeTiming_aboveClock hdiv hf,
      fun ht hp => (computeTiming_total hdiv hf ht).trans (timingOfTotal_prescaler hp),
      fun ht hp hr => (computeTiming_total hdiv hf ht).trans (timingOfTotal_autoReload hp hr),
      fun ht hp hr => (computeTiming_total hdiv hf ht).trans (timingOfTotal_of_fits hp hr)⟩⟩

/-- Settles O11: the pair is the prescaler and the auto-reload of the total, of which each item is a fact. -/
theorem calculatorPairBounds : Obligations.CalculatorPairBounds := by
  intro f clk div psc arr h
  have hpos := computeTiming_arr_pos h
  have hpsc_lt := psc.isLt
  have harr_lt := arr.isLt
  obtain ⟨-, -, -, hpsc, harr⟩ := computeTiming_pair_total h
  refine ⟨by omega, ?_⟩
  rw [hpsc, harr]
  exact ⟨⟨(prescalerOf_le_iff _ _).1 (Nat.le_refl _), fun p => (prescalerOf_le_iff _ p).2⟩, period_bounds _,
    half_le_reloadOf, prescaler_unused⟩

/-- Settles O12: the auto-reload is at most 65536, and reaches it at the multiples of 65536. -/
theorem calculatorAcceptedTotals : Obligations.CalculatorAcceptedTotals := by
  refine ⟨fun total ht => ?_, fun f clk div => ⟨fun ⟨_, _, h⟩ => accepted_of_pair h, fun h =>
    ⟨_, _, computeTiming_accepted h⟩⟩⟩
  have hle := reloadOf_le total
  have hmultiple := le_reloadOf_iff_multiple ht
  omega

/-- Settles O13: the period is at most the total, and f times the total at most the input clock. -/
theorem achievedFrequencyNotBelowRequested : Obligations.AchievedFrequencyNotBelowRequested := by
  intro f clk div psc arr h
  obtain ⟨-, -, ⟨hperiod, -⟩, -, -⟩ := calculatorPairBounds f clk div psc arr h
  calc f.toNat * ((psc.toNat + 1) * arr.toNat)
    _ ≤ f.toNat * totalCount f clk div := Nat.mul_le_mul_left _ hperiod
    _ ≤ inputClock clk div := Nat.mul_div_le _ _

/-! ### COMPUTE -/

section
variable {f clk : Word} {div : Byte}

theorem withTiming_pair {psc arr : BitVec 16} (h : computeTiming f clk div = .pair psc arr) (s : State)
    (k : BitVec 16 → BitVec 16 → Result) : withTiming f clk div s k = k psc arr := by
  rw [withTiming, h]

theorem withTiming_refused {e : TimingError} (h : computeTiming f clk div = .refused e) (s : State)
    (k : BitVec 16 → BitVec 16 → Result) : withTiming f clk div s k = .next (refusedWith e.status e.cause s) := by
  rw [withTiming, h]
  rfl

/-- Whatever needs the pair is refused by the conditions of a CAUSE, with that cause (R172). -/
theorem withTiming_rangeCause {cause : BitVec 4} (h : RangeCause f clk div cause) (s : State)
    (k : BitVec 16 → BitVec 16 → Result) :
    withTiming f clk div s k = .next (refusedWith .errFreqRange cause s) := by
  obtain ⟨e, he, hstatus, hcause⟩ := computeTiming_rangeCause h
  rw [withTiming_refused he, hstatus, hcause]

end

/-- An answer OK without an event. -/
theorem respondOk_eq_done (v : Word) (s : State) : respondOk v s = .next (done v [] s) := by
  simp [respondOk_eq, done, answer]

/-- Two 16-bit values side by side are one 32-bit value. -/
theorem ofNat_append_ofNat {high low : Nat} (hl : low ≤ 65535) :
    BitVec.ofNat 16 high ++ BitVec.ofNat 16 low = BitVec.ofNat 32 (high * 65536 + low) := by
  apply BitVec.eq_of_toNat_eq
  have hlow : low % 2 ^ 16 < 2 ^ 16 := Nat.mod_lt _ (by decide)
  rw [BitVec.toNat_append, BitVec.toNat_ofNat, BitVec.toNat_ofNat, BitVec.toNat_ofNat,
    ← Nat.shiftLeft_add_eq_or_of_lt hlow, Nat.shiftLeft_eq]
  omega

/-- Settles O14: COMPUTE reads no state, so its answer is the calculator's. -/
theorem computeAnswersThePair : Obligations.ComputeAnswersThePair := by
  refine fun f clk div s => ⟨fun h => ?_, fun h => withTiming_refused (computeTiming_operand h) s _,
    fun _ h => withTiming_rangeCause h s _⟩
  obtain ⟨hp, -⟩ := accepted_fits h
  rw [← ofNat_append_ofNat hp, ← respondOk_eq_done]
  exact withTiming_pair (computeTiming_accepted h) s _

/-! ### The same frequency twice (R91) -/

theorem changePeriod_pair {f : Word} {s : State} {psc arr : BitVec 16}
    (h : computeTiming f s.snapClk s.snapDiv = .pair psc arr) :
    changePeriod f s = .next (answer (.okay 0) (recordFreq f (reprogram psc arr s))) :=
  withTiming_pair h s _

/-- A live change given twice: what the second reads, the owner and the snapshot, the first has kept, so if the second is
accepted the first was, with the same pair. -/
theorem changePeriod_twice {i : Instr} {f : Word} {modes : List Owner} {s t u : State}
    (hi : ∀ s, exec i s = admitIn modes s (changePeriod f s)) (hc : isConstructor i = false) (hf : i ≠ .free)
    (ht : exec i s = .next t) (hu : exec i t = .next u) : u.psc = t.psc ∧ u.arr = t.arr ∧ u.freq = t.freq := by
  have howner := exec_keeps_owner ht hc hf
  obtain ⟨hclk, hdiv⟩ := exec_keeps_snapshot ht hc
  rw [hi] at ht hu
  rcases admitIn_next hu with ⟨-, rfl⟩ | ⟨ho, hm, hu⟩ | ⟨-, -, rfl⟩
  · exact ⟨rfl, rfl, rfl⟩
  · rcases withTiming_next hu with ⟨psc, arr, hpair, hu⟩ | ⟨_, -, rfl⟩
    · rw [howner] at ho hm
      rw [hclk, hdiv] at hpair
      rw [admitIn_admitted _ ho hm, changePeriod_pair hpair] at ht
      obtain rfl := Host.Outcome.next.inj ht
      obtain rfl := respondOk_next hu
      simp [reprogram_eq]
    · exact ⟨rfl, rfl, rfl⟩
  · exact ⟨rfl, rfl, rfl⟩

/-- Settles O46: SET_FREQ and SET_PERIOD are the one live change, admitted in different modes. -/
theorem frequencyChangeIsIdempotent : Obligations.FrequencyChangeIsIdempotent := fun _ _ _ _ =>
  ⟨changePeriod_twice (fun _ => rfl) rfl nofun, changePeriod_twice (fun _ => rfl) rfl nofun⟩

end Sys2Proof.Machine
end

section
/-! SUPPORT. Acquisition and release in the terms of the statements (spec/41_lifecycle.md R95 to R103): the start sequence
with the calculator's pair, the two constructors, FREE, and what changes OWNER. -/

namespace Sys2Proof.Machine

open Sys2Proof.Claims

/-! ### The start sequence with the pair of accepted operands (R101) -/

theorem setWidth_ofNat_half {n : Nat} (h : n ≤ 65535) : (BitVec.ofNat 16 n).setWidth 32 = BitVec.ofNat 32 n :=
  BitVec.setWidth_ofNat_of_le_of_lt (by decide) (by omega)

/-- A command that runs START_SEQ with the calculator's pair, on a state `u` of its own: the constructors, START. -/
theorem withTiming_startSeq {f clk : Word} {div : Byte} (h : Accepted f clk div) (s u : State) :
    withTiming f clk div s (fun psc arr => respondOk 0 (startSeq psc arr f u)) =
      .next (done 0 (startEvents (totalCount f clk div))
        { retimed f (totalCount f clk div) u with cen := true, cnt := 0 }) := by
  obtain ⟨hp, hr⟩ := accepted_fits h
  rw [withTiming_pair (computeTiming_accepted h), respondOk_eq, startSeq_eq, setWidth_ofNat_half hp,
    setWidth_ofNat_half hr]
  rfl

/-! ### The constructors (R96 to R99) -/

theorem onlyUnowned_unowned {s : State} (k : Result) (h : s.owner = .unowned) : onlyUnowned s k = k := if_pos h

theorem onlyUnowned_owned {s : State} (k : Result) (h : s.owner ≠ .unowned) :
    onlyUnowned s k = .next (refusedWith .errAlreadyOwned 0 s) := if_neg h

/-- An unowned block leaves NEW_TIMER to the calculator. -/
theorem exec_newTimer_unowned {s : State} (ho : s.owner = .unowned) (f clk : Word) (div : Byte) :
    exec (.newTimer f clk div) s =
      withTiming f clk div s fun psc arr => respondOk 0 (startSeq psc arr f (busSeq (acquire .timer clk div s))) :=
  onlyUnowned_unowned _ ho

/-- NEW_PWM reaches the calculator once the divide factor and the pins have passed (R96, R177). -/
theorem exec_newPwm_unowned {s : State} (ho : s.owner = .unowned) (f clk : Word) {div : Byte} {pv : BitVec 4}
    (hdiv : div ≠ 0) (hpv : pv = 0b1111) :
    exec (.newPwm f clk div pv) s =
      withTiming f clk div s fun psc arr =>
        respondOk 0 (startSeq psc arr f (enableAll (busSeq (acquire .pwm clk div s)))) :=
  (onlyUnowned_unowned _ ho).trans
    ((if_pos ((divLegal_iff div).2 hdiv)).trans (if_pos ((pinsValid_iff pv).2 hpv)))

theorem exec_newPwm_operand {s : State} (ho : s.owner = .unowned) (f clk : Word) {div : Byte} (pv : BitVec 4)
    (hdiv : div = 0) : exec (.newPwm f clk div pv) s = .next (refusedWith .errOperand 0 s) :=
  (onlyUnowned_unowned _ ho).trans (if_neg (by simp [hdiv]))

theorem exec_newPwm_pin {s : State} (ho : s.owner = .unowned) (f clk : Word) {div : Byte} {pv : BitVec 4}
    (hdiv : div ≠ 0) (hpv : pv ≠ 0b1111) : exec (.newPwm f clk div pv) s = .next (refusedWith .errPin 0 s) :=
  (onlyUnowned_unowned _ ho).trans
    ((if_pos ((divLegal_iff div).2 hdiv)).trans (if_neg (mt (pinsValid_iff pv).1 hpv)))

/-- Settles O15: the start sequence follows the bus sequence on the acquired block; the refusals are the gate's and the
calculator's. -/
theorem newTimerConstructs : Obligations.NewTimerConstructs := by
  refine fun f clk div s => ⟨fun ho h => ?_, onlyUnowned_owned _,
    fun ho h => (exec_newTimer_unowned ho f clk div).trans (withTiming_refused (computeTiming_operand h) s _),
    fun ho _ h => (exec_newTimer_unowned ho f clk div).trans (withTiming_rangeCause h s _)⟩
  rw [exec_newTimer_unowned ho, withTiming_startSeq h, busSeq_eq]
  simp [done, retimed, acquire, periphReset, busEvents, Chan.reset]

/-- Settles O16: as NEW_TIMER, with the four ENABLE_STEPs between the bus sequence and the start sequence. -/
theorem newPwmConstructs : Obligations.NewPwmConstructs := by
  refine fun f clk div pv s => ⟨fun ho h hpv => ?_, onlyUnowned_owned _, fun ho => exec_newPwm_operand ho f clk pv,
    fun ho => exec_newPwm_pin ho f clk, fun ho hpv _ h => ?_⟩
  · have ⟨hdiv, _⟩ := h
    rw [exec_newPwm_unowned ho f clk hdiv hpv, withTiming_startSeq h, enableAll_busSeq_eq]
    simp [done, retimed, acquire, periphReset, busEvents, Chan.reset]
  · have ⟨hdiv, _⟩ := h
    rw [exec_newPwm_unowned ho f clk hdiv hpv, withTiming_rangeCause h]

/-! ### FREE and the transitions of OWNER (R95, R102) -/

theorem Owner.mem_of_ne_unowned {o : Owner} (h : o ≠ .unowned) : o ∈ [Owner.timer, .pwm] := by
  cases o with
  | unowned => exact absurd rfl h
  | timer | pwm => simp

/-- Settles O17: FREE is admitted in both modes, and its one register write clears CEN. -/
theorem freeReleases : Obligations.FreeReleases := by
  refine fun s => ⟨fun ho => ?_, admitIn_unowned _⟩
  refine (admitIn_admitted _ ho (Owner.mem_of_ne_unowned ho)).trans ?_
  rw [respondOk_eq, writeReg_cr]
  rfl

/-- Settles O18: the three transitions are the owners that O15, O16 and O17 give; conversely a refusal changes no owner,
and of the effects only the constructors' and FREE's do. -/
theorem lifecycleTransitions : Obligations.LifecycleTransitions := by
  refine ⟨fun f clk div s ho h => ?_, fun f clk div s ho h => ?_, fun s ho => ?_, fun i s t h hne => ?_⟩
  · obtain ⟨hnew, -⟩ := newTimerConstructs f clk div s
    exact ⟨_, hnew ho h, rfl⟩
  · obtain ⟨hnew, -⟩ := newPwmConstructs f clk div 0b1111 s
    exact ⟨_, hnew ho h rfl, rfl⟩
  · obtain ⟨hfree, -⟩ := freeReleases s
    exact ⟨_, hfree ho, rfl⟩
  · rcases exec_next h with ⟨_, _, -, rfl⟩ | ⟨u, v, he, rfl⟩
    · exact absurd rfl hne
    · cases he with
      | newTimer ho hpair => exact .inl ⟨ho, rfl, _, _, _, rfl, accepted_of_pair hpair⟩
      | newPwm ho hpair => exact .inr (.inl ⟨ho, rfl, _, _, _, rfl, accepted_of_pair hpair⟩)
      | free ho => exact .inr (.inr ⟨ho, rfl, rfl⟩)
      | _ => exact absurd (exec_keeps_owner h rfl nofun) hne

end Sys2Proof.Machine
end

section
/-! SUPPORT. The Periodic Timer's commands in the terms of the statements (spec/42_timer_ops.md R110 to R119): the gate of
a Timer-only command, one register write answered OK, and the two frequency commands. -/

namespace Sys2Proof.Machine

open Sys2Proof.Claims

/-! ### The gate of a Timer-only command (R176) -/

section
variable {i : Instr} {s : State} {k : Result}

theorem timerOnly_of_admitIn (hi : exec i s = admitIn [.timer] s k) : TimerOnly i s :=
  ⟨fun ho => hi.trans (admitIn_unowned k ho),
    fun ho => hi.trans (admitIn_wrongMode k (by simp [ho]) (by simp [ho]))⟩

theorem exec_of_timer (hi : exec i s = admitIn [.timer] s k) (ho : s.owner = .timer) : exec i s = k :=
  hi.trans (admitIn_admitted k (by simp [ho]) (by simp [ho]))

end

/-! ### Commands of one register write (R112 to R119) -/

theorem respondOk_writeReg_cr (b : Bool) (s : State) :
    respondOk 0 (writeReg .cr (flagWord b) s) = .next (done 0 [.regw .cr (flagWord b)] { s with cen := b }) := by
  rw [respondOk_eq, writeReg_cr]
  rfl

theorem respondOk_writeReg_ier (b : Bool) (s : State) :
    respondOk 0 (writeReg .ier (flagWord b) s) = .next (done 0 [.regw .ier (flagWord b)] { s with uie := b }) := by
  rw [respondOk_eq, writeReg_ier]
  rfl

theorem respondOk_writeReg_sr (b : Bool) (s : State) :
    respondOk 0 (writeReg .sr (flagWord b) s) = .next (done 0 [.regw .sr (flagWord b)] { s with uif := b }) := by
  rw [respondOk_eq, writeReg_sr]
  rfl

/-- Settles O25: admitted in Timer mode only, each is one write of CEN. -/
theorem pauseAndResumeWriteCen : Obligations.PauseAndResumeWriteCen := fun s =>
  ⟨fun ho => (exec_of_timer rfl ho).trans (respondOk_writeReg_cr false s), timerOnly_of_admitIn rfl,
    fun ho => (exec_of_timer rfl ho).trans (respondOk_writeReg_cr true s), timerOnly_of_admitIn rfl⟩

/-- Settles O26: the one write is of CNT. -/
theorem resetCounterZeroesCnt : Obligations.ResetCounterZeroesCnt := by
  refine fun s => ⟨fun ho => ?_, timerOnly_of_admitIn rfl⟩
  rw [exec_of_timer rfl ho, respondOk_eq, writeReg_cnt_zero]
  rfl

/-- Settles O27: the answer carries what CNT reads as, and there is no write. -/
theorem counterReturnsCnt : Obligations.CounterReturnsCnt := fun s =>
  ⟨fun ho => (exec_of_timer rfl ho).trans (respondOk_eq_done s.cnt s), timerOnly_of_admitIn rfl⟩

/-- Settles O28: UIF alone decides between the clearing write and WOULD_BLOCK. -/
theorem waitTestsAndClearsUif : Obligations.WaitTestsAndClearsUif := by
  refine fun s => ⟨fun ho hset => ?_, fun ho hclear => ?_, timerOnly_of_admitIn rfl⟩
  · exact (exec_of_timer rfl ho).trans ((if_pos hset).trans (respondOk_writeReg_sr false s))
  · exact (exec_of_timer rfl ho).trans ((if_neg (by simp [hclear])).trans (raise_eq .wouldBlock 0 s))

/-- Settles O29: the write of WAIT without its test. -/
theorem clearUifClears : Obligations.ClearUifClears := fun s =>
  ⟨fun ho => (exec_of_timer rfl ho).trans (respondOk_writeReg_sr false s), timerOnly_of_admitIn rfl⟩

/-- The one write of LISTEN and UNLISTEN, admitted in both modes. -/
theorem admitIn_owned_writeUie {s : State} (ho : s.owner ≠ .unowned) (b : Bool) :
    admitIn [.timer, .pwm] s (respondOk 0 (writeReg .ier (flagWord b) s)) =
      .next (done 0 [.regw .ier (flagWord b)] { s with uie := b }) :=
  (admitIn_admitted _ ho (Owner.mem_of_ne_unowned ho)).trans (respondOk_writeReg_ier b s)

/-- Settles O30: the gate lets both modes through, so only an unowned block is refused. -/
theorem listenAndUnlistenWriteUie : Obligations.ListenAndUnlistenWriteUie := fun _ =>
  ⟨fun ho => admitIn_owned_writeUie ho true, fun ho => admitIn_owned_writeUie ho false,
    fun ho => ⟨admitIn_unowned _ ho, admitIn_unowned _ ho⟩⟩

/-! ### The frequency commands (R110, R111) -/

/-- A legal divide factor leaves an accepted frequency or one of the four causes: 2^32, neither accepted
nor past cause 3's bound, is a multiple of 65536 and falls under cause 4. -/
theorem accepted_or_rangeCause {f clk : Word} {div : Byte} (hdiv : div ≠ 0) :
    Accepted f clk div ∨ ∃ cause, RangeCause f clk div cause := by
  by_cases hf : f = 0
  · exact .inr ⟨1, hdiv, .inl ⟨rfl, hf⟩⟩
  by_cases hlow : totalCount f clk div < 1
  · exact .inr ⟨2, hdiv, .inr (.inl ⟨rfl, hf, hlow⟩)⟩
  by_cases hhigh : 2 ^ 32 < totalCount f clk div
  · exact .inr ⟨3, hdiv, .inr (.inr (.inl ⟨rfl, hf, hhigh⟩))⟩
  by_cases hm : totalCount f clk div % 65536 = 0
  · exact .inr ⟨4, hdiv, .inr (.inr (.inr ⟨rfl, hf, by omega, by omega, hm⟩))⟩
  · exact .inl ⟨hdiv, hf, by omega, by omega, hm⟩

/-- An owned block's snapshot has a legal divide factor (R27 item 6). -/
theorem snapshotDecides (f : Word) (s : State) : SnapshotDecides f s := by
  intro hinv ho
  obtain ⟨hdiv, -⟩ := hinv.owned_snapshot ho
  exact accepted_or_rangeCause hdiv

/-- The live change of SET_FREQ and SET_PERIOD with the pair of an accepted frequency. -/
theorem changePeriod_accepted {f : Word} {s : State} (h : Accepted f s.snapClk s.snapDiv) :
    changePeriod f s =
      .next (done 0 (reprogramEvents (totalCount f s.snapClk s.snapDiv))
        (retimed f (totalCount f s.snapClk s.snapDiv) s)) := by
  obtain ⟨hp, hr⟩ := accepted_fits h
  rw [changePeriod_pair (computeTiming_accepted h), reprogram_eq, setWidth_ofNat_half hp, setWidth_ofNat_half hr]
  rfl

/-- Settles O23: past the gate START is the start sequence with the calculator's pair for the snapshot. -/
theorem startRestarts : Obligations.StartRestarts := fun f s =>
  ⟨fun ho h => (exec_of_timer rfl ho).trans (withTiming_startSeq h s s),
    fun ho _ h => (exec_of_timer rfl ho).trans (withTiming_rangeCause h s _),
    snapshotDecides f s, timerOnly_of_admitIn rfl⟩

/-- Settles O24: past the gate SET_FREQ is the live change. -/
theorem setFreqReprogramsLive : Obligations.SetFreqReprogramsLive := fun f s =>
  ⟨fun ho h => (exec_of_timer rfl ho).trans (changePeriod_accepted h),
    fun ho _ h => (exec_of_timer rfl ho).trans (withTiming_rangeCause h s _),
    snapshotDecides f s, timerOnly_of_admitIn rfl⟩

end Sys2Proof.Machine
end

section
/-! SUPPORT. The PWM Controller's commands in the terms of the statements (spec/43_pwm_ops.md R130 to R139): the gate of a
Pwm-only command, the channel-mode register's event, the duty write, and what runs of moves keep. -/

namespace Sys2Proof.Machine

open Sys2Proof.Claims

/-! ### The gate of a Pwm-only command (R176) -/

section
variable {i : Instr} {s : State} {k : Result}

theorem pwmOnly_of_admitIn (hi : exec i s = admitIn [.pwm] s k) : PwmOnly i s :=
  ⟨fun ho => hi.trans (admitIn_unowned k ho),
    fun ho => hi.trans (admitIn_wrongMode k (by simp [ho]) (by simp [ho]))⟩

theorem exec_of_pwm (hi : exec i s = admitIn [.pwm] s k) (ho : s.owner = .pwm) : exec i s = k :=
  hi.trans (admitIn_admitted k (by simp [ho]) (by simp [ho]))

end

/-! ### Commands that only read (R132, R134, R139) -/

/-- Settles O33: the answer carries what CCR[c] reads as, and there is no write. -/
theorem getDutyReturnsCcr : Obligations.GetDutyReturnsCcr := fun _ _ =>
  ⟨fun ho => (exec_of_pwm rfl ho).trans (respondOk_eq_done _ _), pwmOnly_of_admitIn rfl⟩

/-- Settles O35: the answers carry what ARR reads as and the stored FREQ. -/
theorem getMaxDutyAndGetPeriodRead : Obligations.GetMaxDutyAndGetPeriodRead := fun _ =>
  ⟨fun ho => (exec_of_pwm rfl ho).trans (respondOk_eq_done _ _), pwmOnly_of_admitIn rfl,
    fun ho => (exec_of_pwm rfl ho).trans (respondOk_eq_done _ _), pwmOnly_of_admitIn rfl⟩

/-! ### ENABLE and DISABLE (R130, R131) -/

/-- The bit positions of R25, as an arithmetic sum and as a concatenation. -/
theorem modeWord_eq_ofNat (low high : Chan) : modeWord low high = BitVec.ofNat 32 (modeValue low high) := by
  obtain ⟨_, _, m, p⟩ := low
  obtain ⟨_, _, n, q⟩ := high
  simp only [modeWord, modeByte, modeValue]
  revert m p n q
  decide

/-- The event of a channel-mode write carries what the register then reads as. -/
theorem modeEvent_eq (c : Channel) (s : State) : modeEvent c s = .regw (ccmrOf c) (memRead (ccmrOf c) s) := by
  cases c <;> simp only [modeEvent, ccmrOf, memRead, modeWord_eq_ofNat]

/-- The mode registers do not hold the duties. -/
theorem modeEvent_setChan_ccra (c : Channel) (s : State) (x : Chan) (v : Word) :
    modeEvent c (s.setChan c { x with ccra := v }) = modeEvent c (s.setChan c x) := by
  cases c <;> rfl

/-- An answer OK after the one event of a command. -/
theorem respondOk_emit (v : Word) (e : OutEvent) (s : State) : respondOk v (emit e s) = .next (done v [e] s) := rfl

/-- Settles O31: ENABLE_STEP is one access, of the register whose new value the event carries. -/
theorem enableSetsModeAndPreload : Obligations.EnableSetsModeAndPreload := by
  intro c s t
  refine ⟨?_, pwmOnly_of_admitIn rfl⟩
  rintro rfl ho
  rw [exec_of_pwm rfl ho, enableStep_eq, respondOk_emit, modeEvent_eq]

/-- Settles O32: the access clears OCPE[c], and copying CCR[c] into CCRA[c] after it changes no mode register. -/
theorem disableClearsPreload : Obligations.DisableClearsPreload := by
  intro c s t
  refine ⟨?_, pwmOnly_of_admitIn rfl⟩
  rintro rfl ho
  rw [exec_of_pwm rfl ho, disableStep_eq, activate_emit_setChan, respondOk_emit, ← modeEvent_eq,
    ← modeEvent_setChan_ccra]

/-! ### SET_DUTY (R133) -/

/-- In Pwm mode a duty that fits is written, and the answer is OK. -/
theorem exec_setDuty_fits {c : Channel} {v : Word} {s : State} (ho : s.owner = .pwm)
    (hv : v.toNat < 2 ^ s.cfg.width.bits) :
    exec (.setDuty c v) s =
      .next (done 0 [.regw (.ccr c) v]
        (s.setChan c { s.chan c with ccr := v, ccra := if (s.chan c).ocpe then (s.chan c).ccra else v })) := by
  have hfits : dutyFits s.cfg.width v = true := by simpa [dutyFits] using hv
  rw [exec_of_pwm rfl ho, if_pos hfits, writeDuty_eq hv, respondOk_emit]

/-- Settles O34: the width check decides between one duty write and the refusal; OCPE[c] decides CCRA[c]. -/
theorem setDutyWritesCompare : Obligations.SetDutyWritesCompare := by
  refine fun c v s => ⟨fun ho hv hp => ?_, fun ho hv hp => ?_, fun ho hv => ?_, pwmOnly_of_admitIn rfl⟩
  · rw [exec_setDuty_fits ho hv, hp]
    rfl
  · rw [exec_setDuty_fits ho hv, hp]
    rfl
  · exact (exec_of_pwm rfl ho).trans (if_neg (by simpa [dutyFits] using hv))

/-! ### SET_PERIOD (R135) -/

/-- Settles O36: past the gate SET_PERIOD is the live change. -/
theorem setPeriodReprogramsLive : Obligations.SetPeriodReprogramsLive := fun f s =>
  ⟨fun ho h => (exec_of_pwm rfl ho).trans (changePeriod_accepted h),
    fun ho _ h => (exec_of_pwm rfl ho).trans (withTiming_rangeCause h s _),
    snapshotDecides f s, pwmOnly_of_admitIn rfl⟩

/-! ### Runs of moves (R46) and the duty they keep (R138) -/

/-- A run that answers a next state made a first move that did. -/
theorem play_cons_next {m : Move} {ms : List Move} {s u : State} (h : play (m :: ms) s = .next u) :
    ∃ t, move m s = .next t ∧ play ms t = .next u := by
  unfold play at h
  split at h
  · exact ⟨_, ‹_›, h⟩
  · cases h
  · cases h

/-- What every move of a run keeps, the run keeps. -/
theorem play_keeps {α : Type} (view : State → α) {ms : List Move} {s u : State}
    (hmove : ∀ m ∈ ms, ∀ s t, move m s = .next t → view t = view s) (h : play ms s = .next u) : view u = view s := by
  induction ms generalizing s with
  | nil => rw [Host.Outcome.next.inj h]
  | cons m ms ih =>
    obtain ⟨t, hm, hrest⟩ := play_cons_next h
    calc view u = view t := ih (fun m' hm' => hmove m' (List.mem_cons_of_mem _ hm')) hrest
      _ = view s := hmove m List.mem_cons_self s t hm

@[simp] theorem countUp_chan (s : State) (c : Channel) : (countUp s).chan c = s.chan c := by cases c <;> rfl

@[simp] theorem rollover_chan (s : State) (c : Channel) : (rollover s).chan c = transfer (s.chan c) := by
  cases c <;> rfl

/-- No tick writes a CCR: an update event copies CCR into CCRA, never the other way (R155). -/
theorem tick_keeps_ccr (c : Channel) (s : State) : ((tick s).chan c).ccr = (s.chan c).ccr := by
  rcases tick_cases s with
    ht | ⟨-, -, ⟨-, ht⟩ | ⟨-, ht⟩ | ⟨-, ⟨-, ht⟩ | ⟨-, ht⟩ | ⟨-, -, ht⟩⟩⟩ <;> rw [ht]
  · rw [countUp_chan]
  · rw [rollover_chan, transfer_ccr]
  · cases c <;> rfl
  · rw [rollover_chan, transfer_ccr]
  · rw [countUp_chan]

/-- Any ticks and commands but SET_DUTY of channel c and the constructors keep CCR[c]. -/
theorem play_keeps_ccr {c : Channel} {ms : List Move} {s u : State}
    (hms : ∀ i, .command i ∈ ms → isConstructor i = false ∧ isSetDuty c i = false) (h : play ms s = .next u) :
    (u.chan c).ccr = (s.chan c).ccr := by
  refine play_keeps (fun s => (s.chan c).ccr) (fun m hm s t hst => ?_) h
  cases m with
  | command i =>
    obtain ⟨hc, hd⟩ := hms i hm
    exact exec_keeps_ccr hst hc c hd
  | tick =>
    obtain rfl := Host.Outcome.next.inj hst
    exact tick_keeps_ccr c s

/-- A SET_DUTY answered OK was not refused, so CCR[c] holds its value. -/
theorem exec_setDuty_ccr {c : Channel} {v : Word} {s t : State} (h : exec (.setDuty c v) s = .next t)
    (hok : t.responses = s.responses ++ [.okay 0]) : (t.chan c).ccr = v := by
  rcases exec_next h with ⟨st, cause, hst, rfl⟩ | ⟨u, w, he, rfl⟩
  · simp [Response.refusal, Response.okay, hst] at hok
  · cases he with
    | setDuty => simp

/-- Settles O45: SET_DUTY put v in CCR[c], the run kept it, and GET_DUTY answers CCR[c]. -/
theorem dutyRoundTrip : Obligations.DutyRoundTrip := by
  intro c v s t u ms hset hok hms hplay _ ho
  have hccr : (u.chan c).ccr = v := (play_keeps_ccr hms hplay).trans (exec_setDuty_ccr hset hok)
  obtain ⟨hget, -⟩ := getDutyReturnsCcr c u
  rw [hget ho, hccr]

end Sys2Proof.Machine
end

section
/-! SUPPORT. The counter's ticks in the terms of the statements (spec/44_counter_tick.md R150 to R160): one TICK step, the
runs of consecutive ticks, and the outputs IRQ and OUT. -/

namespace Sys2Proof.Machine

open Sys2Proof.Claims

/-! ### One TICK step (R150 to R155) -/

theorem transfer_eq_reloaded (x : Chan) : transfer x = reloaded x := by
  unfold transfer reloaded
  split <;> rfl

theorem rollover_eq_rolledOver (s : State) : rollover s = rolledOver s := by
  simp only [rollover_eq, transfer_eq_reloaded]
  rfl

section
variable {s : State}

/-- The carry out of W bits is the only thing MemWrite could drop from CNT + 1. -/
theorem countUp_of_succ_fits (h : s.cnt.toNat + 1 < 2 ^ s.cfg.width.bits) : countUp s = { s with cnt := s.cnt + 1 } :=
  countUp_eq (Nat.lt_of_le_of_lt (Nat.mod_le _ _) h)

theorem tick_below (hc : s.cen = true) (hu : s.undef = false) (hfits : FitsW s.cfg.width s.arr)
    (h : s.cnt.toNat + 1 < s.arr.toNat) : tick s = { s with cnt := s.cnt + 1 } := by
  rw [tick_enabled hc hu, count_below h, countUp_of_succ_fits (Nat.lt_trans h hfits)]

theorem tick_boundary (hc : s.cen = true) (hu : s.undef = false) (h : s.cnt.toNat + 1 = s.arr.toNat) :
    tick s = rolledOver s := by
  rw [tick_enabled hc hu, count_boundary h, rollover_eq_rolledOver]

theorem tick_overrun (h : s.overrun) (hu : s.undef = false) : tick s = tickOverrun s := by
  obtain ⟨hc, hge⟩ := h
  rw [tick_enabled hc hu, count_overrun hge]

theorem tickOverrun_fault (h : s.cfg.overrun = .fault) : tickOverrun s = { s with undef := true } := by
  simp only [tickOverrun, h]

theorem tickOverrun_wrapNow (h : s.cfg.overrun = .wrapNow) : tickOverrun s = rolledOver s := by
  simp only [tickOverrun, h, rollover_eq_rolledOver]

theorem tickOverrun_countToMax_last (h : s.cfg.overrun = .countToMax) (hlast : s.cnt.toNat = 2 ^ s.cfg.width.bits - 1) :
    tickOverrun s = rolledOver s := by
  simp only [tickOverrun, h, if_pos hlast, rollover_eq_rolledOver]

/-- A count within W bits that is not the last one leaves room for one more. -/
theorem tickOverrun_countToMax_room (h : s.cfg.overrun = .countToMax) (hfits : FitsW s.cfg.width s.cnt)
    (hlast : s.cnt.toNat ≠ 2 ^ s.cfg.width.bits - 1) : tickOverrun s = { s with cnt := s.cnt + 1 } := by
  have hroom : s.cnt.toNat + 1 < 2 ^ s.cfg.width.bits := by
    have : s.cnt.toNat < 2 ^ s.cfg.width.bits := hfits
    omega
  simp only [tickOverrun, h, if_neg hlast, countUp_of_succ_fits hroom]

theorem step_of_tick {t : State} {rest : List Agent} (h : s.sched = .tick :: rest)
    (ht : tick { s with sched := rest } = t) : step s = .next t := by
  rw [step_tick (turn_of_sched h), endTurn, h, List.tail_cons, ht]

end

/-- Settles O40: the turn is used up, and the tick in it is disabled. -/
theorem noTickWhileStopped : Obligations.NoTickWhileStopped := fun _ _ hsched hstop =>
  step_of_tick hsched (tick_disabled hstop)

/-- Settles O37: CNT + 1 is below ARR, so it fits W bits as ARR does. -/
theorem tickCountsUp : Obligations.TickCountsUp := fun _ _ hsched hc hu hfits h =>
  step_of_tick hsched (tick_below hc hu hfits h)

/-- Settles O38: the tick is enabled and at the boundary. -/
theorem tickRollsOver : Obligations.TickRollsOver := fun _ _ hsched hc hu h =>
  step_of_tick hsched (tick_boundary hc hu h)

/-- Settles O39: the tick is enabled and past the boundary, so the policy decides. -/
theorem tickInOverrunFollowsPolicy : Obligations.TickInOverrunFollowsPolicy := by
  intro s rest hsched hu hover hfits
  have hstep {t : State} (ht : tickOverrun { s with sched := rest } = t) : step s = .next t :=
    step_of_tick hsched ((tick_overrun (s := { s with sched := rest }) hover hu).trans ht)
  exact ⟨fun hp => hstep (tickOverrun_fault hp), fun hp => hstep (tickOverrun_wrapNow hp),
    fun hp hlast => hstep (tickOverrun_countToMax_last hp hlast),
    fun hp hlast => hstep (tickOverrun_countToMax_room hp hfits hlast)⟩

/-! ### Consecutive ticks (R157, R160) -/

/-- Settles O41, by induction on the number of ticks: the first of them counts up (O37), and the rest are ticks from
CNT + 1; or it is already the one at the boundary (O38). -/
theorem rolloverAfterExactlyReloadTicks : Obligations.RolloverAfterExactlyReloadTicks := by
  intro s n rest hsched hc hu hfits hlt
  induction n generalizing s with
  | zero =>
    obtain rfl : s.sched = rest := hsched
    refine ⟨fun _ => ?_, fun h => absurd h (Nat.ne_of_lt hlt)⟩
    rw [Nat.add_zero, BitVec.ofNat_toNat, BitVec.setWidth_eq]
    rfl
  | succ n ih =>
    have hsched : s.sched = .tick :: (List.replicate n .tick ++ rest) := hsched
    rcases Nat.lt_or_eq_of_le (Nat.succ_le_of_lt hlt) with hbelow | hboundary
    · have hsucc : (s.cnt + 1).toNat = s.cnt.toNat + 1 := by bv_omega
      have hrest := ih { s with sched := List.replicate n .tick ++ rest, cnt := s.cnt + 1 } rfl hc hu
        hfits (hsucc ▸ hbelow)
      rw [run_succ (tickCountsUp s _ hsched hc hu hfits hbelow)]
      rwa [hsucc, Nat.add_assoc, Nat.add_comm 1 n] at hrest
    · refine ⟨fun h => by omega, fun h => ?_⟩
      obtain rfl : n = 0 := by omega
      exact run_succ (tickRollsOver s rest hsched hc hu hboundary)

theorem out_of_pwmMode1 {c : Channel} {s : State} (h : (s.chan c).ocm = 6) :
    out c s = some (decide (s.cnt.toNat < (s.chan c).ccra.toNat)) := if_pos h

/-- Settles O42: after n ticks CNT = n (O41) and CCRA[c] is as it was; n is below ARR, so comparing it with
min(CCRA[c], ARR) is comparing it with CCRA[c]. -/
theorem outputHighForCompareTicks : Obligations.OutputHighForCompareTicks := by
  intro s c n rest hsched hc hu hfits hcnt hn hmode
  have hzero : s.cnt.toNat = 0 := congrArg BitVec.toNat hcnt
  obtain ⟨hrun, -⟩ := rolloverAfterExactlyReloadTicks s n rest hsched hc hu hfits (by omega)
  refine ⟨_, hrun (by omega), ?_⟩
  have hchan : ({ s with sched := rest, cnt := BitVec.ofNat 32 (s.cnt.toNat + n) } : State).chan c = s.chan c := by
    cases c <;> rfl
  have hcount : (BitVec.ofNat 32 (s.cnt.toNat + n)).toNat = n := by
    rw [hzero, Nat.zero_add]
    exact Nat.mod_eq_of_lt (Nat.lt_trans hn s.arr.isLt)
  rw [out_of_pwmMode1 (hchan ▸ hmode), hchan, hcount]
  simp [hn]

/-! ### UIF, OUT and IRQ under a command (R156, R158, R159) -/

/-- Settles O44: the commands that write UIF clear it. -/
theorem noCommandRaisesTheUpdateEvent : Obligations.NoCommandRaisesTheUpdateEvent := by
  intro i s t h ht
  rcases exec_next h with ⟨_, _, -, rfl⟩ | ⟨u, v, he, rfl⟩
  · exact ht
  · cases he with
    | newTimer | newPwm | wait | clearUif => exact absurd ht Bool.false_ne_true
    | _ => exact (exec_keeps_uif h rfl nofun nofun).symm.trans ht

/-- Settles O56: OUT[c] reads OCM[c], CNT and CCRA[c], none of which FREE writes. -/
theorem outputIsTheComparison : Obligations.OutputIsTheComparison := by
  refine ⟨fun c s => ⟨fun hmode => ?_, fun hmode => ?_⟩, fun s t h c => ?_⟩
  · simp [out_of_pwmMode1 hmode]
  · exact if_neg (by simp [hmode, pwmMode1])
  · refine exec_keeps (out c) h (fun _ _ => by simp [out]) fun u he => ?_
    cases he
    cases c <;> rfl

theorem irq_iff (s : State) : irq s = true ↔ s.uie = true ∧ s.uif = true := Bool.and_eq_true_iff

/-- Settles O57: past the commands named, and LISTEN, which raises UIE, both bits are kept. -/
theorem irqFallsOnlyByAcknowledge : Obligations.IrqFallsOnlyByAcknowledge := by
  refine ⟨irq_iff, fun i s t h hhigh hlow => ?_⟩
  obtain ⟨huie, huif⟩ := (irq_iff s).mp hhigh
  have hlow : ¬(t.uie = true ∧ t.uif = true) := fun hbits => by simp [(irq_iff t).mpr hbits] at hlow
  rcases exec_next h with ⟨_, _, -, rfl⟩ | ⟨u, v, he, rfl⟩
  · exact absurd ⟨huie, huif⟩ hlow
  · cases he with
    | newTimer | newPwm => exact .inr rfl
    | wait ho | clearUif ho => exact .inl ⟨by simp, by simp [ho]⟩
    | unlisten ho => exact .inl ⟨by simp, ho⟩
    | listen => exact absurd ⟨rfl, huif⟩ hlow
    | _ =>
      exact absurd ⟨(exec_keeps_uie h rfl nofun nofun).trans huie, (exec_keeps_uif h rfl nofun nofun).trans huif⟩ hlow

end Sys2Proof.Machine
end

section
/-! SUPPORT. What a command refuses, and why (spec/60_exceptions.md R170 to R177): every refusal there is, once, and what
the one response of a command can therefore say. -/

namespace Sys2Proof.Machine

open Sys2Proof.Claims

/-! ### The admission table (R176) -/

/-- The entry of the admission table for a command admitted in `modes` only. -/
def gateStatus (modes : List Owner) (o : Owner) : Option Status :=
  if o = .unowned then some .errNotOwned else if o ∈ modes then none else some .errWrongMode

/-- The Timer-only rows of the table; PAUSE stands for any of them. -/
theorem ownershipStatus_timerOnly (o : Owner) : ownershipStatus .pause o = gateStatus [.timer] o := by cases o <;> rfl

/-- The Pwm-only rows; GET_PERIOD stands for any of them. -/
theorem ownershipStatus_pwmOnly (o : Owner) : ownershipStatus .getPeriod o = gateStatus [.pwm] o := by cases o <;> rfl

/-- The rows of FREE, LISTEN and UNLISTEN. -/
theorem ownershipStatus_owned (o : Owner) : ownershipStatus .free o = gateStatus [.timer, .pwm] o := by cases o <;> rfl

/-- The rows of the constructors. -/
theorem ownershipStatus_constructor {i : Instr} (hc : isConstructor i = true) (o : Owner) :
    ownershipStatus i o = if o = .unowned then none else some .errAlreadyOwned := by
  cases i with
  | newTimer | newPwm => rfl
  | _ => cases hc

theorem unowned_of_admitted {i : Instr} {o : Owner} (hc : isConstructor i = true) (h : ownershipStatus i o = none) :
    o = .unowned := by
  simpa [ownershipStatus_constructor hc] using h

theorem admitIn_of_gateStatus_none {modes : List Owner} {s : State} (k : Result) (h : gateStatus modes s.owner = none) :
    admitIn modes s k = k := by
  unfold gateStatus at h
  split at h
  · cases h
  · split at h
    · exact admitIn_admitted k ‹_› ‹_›
    · cases h

theorem admitIn_of_gateStatus_some {modes : List Owner} {s : State} {st : Status} (k : Result)
    (h : gateStatus modes s.owner = some st) : admitIn modes s k = .next (refusedWith st 0 s) := by
  unfold gateStatus at h
  split at h
  · obtain rfl := Option.some.inj h
    exact admitIn_unowned k ‹_›
  · split at h
    · cases h
    · obtain rfl := Option.some.inj h
      exact admitIn_wrongMode k ‹_› ‹_›

/-- A command the table does not admit answers the table's status, whatever its operands. -/
theorem exec_notAdmitted {i : Instr} {s : State} {st : Status} (h : ownershipStatus i s.owner = some st) :
    exec i s = .next (refusedWith st 0 s) := by
  cases i with
  | compute => cases h
  | newTimer | newPwm =>
    rw [ownershipStatus_constructor rfl] at h
    split at h
    · cases h
    · obtain rfl := Option.some.inj h
      exact onlyUnowned_owned _ ‹_›
  | free => exact admitIn_of_gateStatus_some _ ((ownershipStatus_owned _).symm.trans h)
  | listen ev | unlisten ev =>
    cases ev
    exact admitIn_of_gateStatus_some _ ((ownershipStatus_owned _).symm.trans h)
  | start | setFreq | pause | resume | resetCounter | counter | wait | clearUif =>
    exact admitIn_of_gateStatus_some _ ((ownershipStatus_timerOnly _).symm.trans h)
  | enable | disable | getDuty | setDuty | getMaxDuty | setPeriod | getPeriod =>
    exact admitIn_of_gateStatus_some _ ((ownershipStatus_pwmOnly _).symm.trans h)

/-! ### Every refusal there is (R170, R177) -/

/-- What a command gives `compute_timing`: its operands, or its frequency and the snapshot (R90, R97, R99, R110, R111,
R135). -/
def timingOperands (i : Instr) (s : State) : Option (Word × Word × Byte) :=
  match i with
  | .compute f clk div | .newTimer f clk div | .newPwm f clk div _ => some (f, clk, div)
  | .start f | .setFreq f | .setPeriod f => some (f, s.snapClk, s.snapDiv)
  | _ => none

/-- `Refuses i s st cause`: a ground on which the command is refused with `st` and `cause` in the state `s`. -/
inductive Refuses : Instr → State → Status → BitVec 4 → Prop where
  | notAdmitted {i : Instr} {s : State} {st : Status} :
      ownershipStatus i s.owner = some st → Refuses i s st 0
  | timing {i : Instr} {s : State} {f clk : Word} {div : Byte} {e : TimingError} :
      ownershipStatus i s.owner = none → timingOperands i s = some (f, clk, div) →
      computeTiming f clk div = .refused e → Refuses i s e.status e.cause
  | pins {s : State} {f clk : Word} {div : Byte} {pv : BitVec 4} :
      ownershipStatus (.newPwm f clk div pv) s.owner = none → div ≠ 0 → pv ≠ 0b1111 →
      Refuses (.newPwm f clk div pv) s .errPin 0
  | noUpdate {s : State} :
      ownershipStatus .wait s.owner = none → s.uif = false → Refuses .wait s .wouldBlock 0
  | duty {s : State} {c : Channel} {v : Word} :
      ownershipStatus (.setDuty c v) s.owner = none → 2 ^ s.cfg.width.bits ≤ v.toNat →
      Refuses (.setDuty c v) s .errOperand 0

/-- If the result is a refusal, it is one of the command's. -/
def RefusesOnly (i : Instr) (s : State) (r : Result) : Prop :=
  ∀ st cause, st ≠ .ok → r = .next (answer (.refusal st cause) s) → Refuses i s st cause

section
variable {i : Instr} {s : State}

theorem response_of_answer_eq {x y : Response} {s u : State} (h : answer x u = answer y s) : x = y := by
  simpa using (List.append_inj' (congrArg State.responses h) rfl).2

theorem refusesOnly_raise {st : Status} {cause : BitVec 4} (h : Refuses i s st cause) :
    RefusesOnly i s (raise st cause s) := by
  intro st' cause' _ hr
  obtain ⟨rfl, rfl⟩ : st = st' ∧ cause = cause' := by
    simpa [Response.refusal] using response_of_answer_eq (Host.Outcome.next.inj hr)
  exact h

theorem refusesOnly_respondOk (v : Word) (u : State) : RefusesOnly i s (respondOk v u) := by
  intro st cause hst hr
  have hok : Response.okay v = .refusal st cause := response_of_answer_eq (Host.Outcome.next.inj hr)
  exact absurd (congrArg Response.status hok).symm hst

theorem refusesOnly_admitIn {modes : List Owner} {k : Result} (hg : ownershipStatus i s.owner = none)
    (hgate : ownershipStatus i s.owner = gateStatus modes s.owner) (hk : RefusesOnly i s k) :
    RefusesOnly i s (admitIn modes s k) := by
  rwa [admitIn_of_gateStatus_none k (hgate.symm.trans hg)]

theorem refusesOnly_withTiming {f clk : Word} {div : Byte} {k : BitVec 16 → BitVec 16 → Result}
    (hg : ownershipStatus i s.owner = none) (ha : timingOperands i s = some (f, clk, div))
    (hk : ∀ psc arr, RefusesOnly i s (k psc arr)) : RefusesOnly i s (withTiming f clk div s k) := by
  cases hc : computeTiming f clk div with
  | pair psc arr =>
    rw [withTiming_pair hc]
    exact hk psc arr
  | refused e =>
    rw [withTiming_refused hc]
    exact refusesOnly_raise (.timing hg ha hc)

/-- The gate refuses by the table; past it come the calculator, the pins, UIF and the width of a duty. -/
theorem exec_refusesOnly (i : Instr) (s : State) : RefusesOnly i s (exec i s) := by
  cases hg : ownershipStatus i s.owner with
  | some st =>
    rw [exec_notAdmitted hg]
    exact refusesOnly_raise (.notAdmitted hg)
  | none =>
    cases i with
    | compute => exact refusesOnly_withTiming hg rfl fun _ _ => refusesOnly_respondOk _ _
    | newTimer =>
      rw [exec_newTimer_unowned (unowned_of_admitted rfl hg)]
      exact refusesOnly_withTiming hg rfl fun _ _ => refusesOnly_respondOk _ _
    | newPwm f clk div pv =>
      have ho := unowned_of_admitted rfl hg
      by_cases hdiv : div = 0
      · rw [exec_newPwm_operand ho f clk pv hdiv]
        exact refusesOnly_raise (.timing hg rfl (computeTiming_operand hdiv))
      by_cases hpv : pv = 0b1111
      · rw [exec_newPwm_unowned ho f clk hdiv hpv]
        exact refusesOnly_withTiming hg rfl fun _ _ => refusesOnly_respondOk _ _
      · rw [exec_newPwm_pin ho f clk hdiv hpv]
        exact refusesOnly_raise (.pins hg hdiv hpv)
    | start | setFreq =>
      refine refusesOnly_admitIn hg (ownershipStatus_timerOnly _) ?_
      exact refusesOnly_withTiming hg rfl fun _ _ => refusesOnly_respondOk _ _
    | setPeriod =>
      refine refusesOnly_admitIn hg (ownershipStatus_pwmOnly _) ?_
      exact refusesOnly_withTiming hg rfl fun _ _ => refusesOnly_respondOk _ _
    | wait =>
      refine refusesOnly_admitIn hg (ownershipStatus_timerOnly _) ?_
      split
      case isTrue => exact refusesOnly_respondOk _ _
      case isFalse hclear => exact refusesOnly_raise (.noUpdate hg (by simpa using hclear))
    | setDuty c v =>
      refine refusesOnly_admitIn hg (ownershipStatus_pwmOnly _) ?_
      split
      case isTrue => exact refusesOnly_respondOk _ _
      case isFalse hwide => exact refusesOnly_raise (.duty hg (by simpa [dutyFits] using hwide))
    | free => exact refusesOnly_admitIn hg (ownershipStatus_owned _) (refusesOnly_respondOk _ _)
    | listen ev | unlisten ev =>
      cases ev
      exact refusesOnly_admitIn hg (ownershipStatus_owned _) (refusesOnly_respondOk _ _)
    | pause | resume | resetCounter | counter | clearUif =>
      exact refusesOnly_admitIn hg (ownershipStatus_timerOnly _) (refusesOnly_respondOk _ _)
    | enable | disable | getDuty | getMaxDuty | getPeriod =>
      exact refusesOnly_admitIn hg (ownershipStatus_pwmOnly _) (refusesOnly_respondOk _ _)

end

/-- What the one new response of a command can be. -/
theorem exec_response {i : Instr} {s t : State} {x : Response} (h : exec i s = .next t)
    (hx : t.responses = s.responses ++ [x]) :
    (∃ v, x = .okay v) ∨
      ∃ st cause, Refuses i s st cause ∧ x = .refusal st cause ∧ t = answer x s := by
  rcases exec_next h with ⟨st, cause, hst, rfl⟩ | ⟨u, v, he, rfl⟩
  · obtain rfl : Response.refusal st cause = x := by simpa using hx
    exact .inr ⟨st, cause, exec_refusesOnly i s st cause hst h, rfl, rfl⟩
  · exact .inl ⟨v, by simpa [he.responses_eq] using hx.symm⟩

/-! ### The statuses and causes of the refusals (R170, R172) -/

section
variable {i : Instr} {s : State} {st : Status} {cause : BitVec 4}

theorem ownershipStatus_mem {o : Owner} (h : ownershipStatus i o = some st) :
    st ∈ mayAnswer i ∧ st ≠ .errFreqRange := by
  cases i with
  | compute => cases h
  | newTimer | newPwm =>
    obtain ⟨-, rfl⟩ : o ≠ .unowned ∧ .errAlreadyOwned = st := by simpa [ownershipStatus] using h
    simp [mayAnswer]
  | free | listen | unlisten =>
    obtain ⟨-, rfl⟩ : o = .unowned ∧ .errNotOwned = st := by simpa [ownershipStatus] using h
    simp [mayAnswer]
  | _ => cases o <;> cases h <;> simp [mayAnswer]

theorem TimingError.not_ownership (e : TimingError) :
    e.status ≠ .errNotOwned ∧ e.status ≠ .errAlreadyOwned ∧ e.status ≠ .errWrongMode := by
  cases e <;> decide

/-- Once the admission table has passed, no refusal has an ownership status. -/
theorem Refuses.not_ownership (h : Refuses i s st cause) (hg : ownershipStatus i s.owner = none) :
    st ≠ .errNotOwned ∧ st ≠ .errAlreadyOwned ∧ st ≠ .errWrongMode := by
  cases h with
  | notAdmitted hsome => simp [hg] at hsome
  | @timing _ _ _ _ _ e => exact e.not_ownership
  | pins | noUpdate | duty => simp

theorem TimingError.cause_range (e : TimingError) :
    (e.status = .errFreqRange → 1 ≤ e.cause.toNat ∧ e.cause.toNat ≤ 4) ∧ (e.status ≠ .errFreqRange → e.cause = 0) := by
  cases e <;> decide

theorem Refuses.cause_range (h : Refuses i s st cause) :
    (st = .errFreqRange → 1 ≤ cause.toNat ∧ cause.toNat ≤ 4) ∧ (st ≠ .errFreqRange → cause = 0) := by
  cases h with
  | notAdmitted hsome => exact ⟨fun hst => absurd hst (ownershipStatus_mem hsome).2, fun _ => rfl⟩
  | @timing _ _ _ _ _ e => exact e.cause_range
  | pins | noUpdate | duty => simp

/-- A legal divide factor leaves the calculator the four causes only. -/
theorem status_of_computeTiming_refused {f clk : Word} {div : Byte} {e : TimingError} (hdiv : div ≠ 0)
    (h : computeTiming f clk div = .refused e) : e.status = .errFreqRange := by
  rcases accepted_or_rangeCause (f := f) (clk := clk) hdiv with ha | ⟨_, hr⟩
  · simp [computeTiming_accepted ha] at h
  · obtain ⟨e', he', hstatus, -⟩ := computeTiming_rangeCause hr
    obtain rfl := Timing.refused.inj (h.symm.trans he')
    exact hstatus

/-- The snapshot of an owned block has a legal divide factor (R27 item 6), so the commands that read it are never refused
with ERR_OPERAND (R110). -/
theorem Refuses.mem_mayAnswer (h : Refuses i s st cause) (hinv : s.Inv) : st ∈ mayAnswer i := by
  cases h with
  | notAdmitted hsome => exact (ownershipStatus_mem hsome).1
  | @timing _ _ _ _ _ e hg ha he =>
    cases i with
    | compute | newTimer | newPwm => cases e <;> simp [mayAnswer, TimingError.status]
    | start | setFreq | setPeriod =>
      cases ha
      have ho : s.owner ≠ .unowned := fun ho => by simp [ownershipStatus, ho] at hg
      obtain ⟨hdiv, -⟩ := hinv.owned_snapshot ho
      simp [status_of_computeTiming_refused hdiv he, mayAnswer]
    | _ => cases ha
  | pins | noUpdate | duty => simp [mayAnswer]

theorem ok_mem_mayAnswer (i : Instr) : .ok ∈ mayAnswer i := by cases i <;> simp [mayAnswer]

end

/-! ### The statements -/

/-- Settles O19: the gate of each command is its row of the table, and past it no ownership status is left. -/
theorem admissionTable : Obligations.AdmissionTable := by
  refine fun i s => ⟨fun _ => exec_notAdmitted, fun hg => ?_⟩
  obtain ⟨t, x, ht, hx⟩ := everyCommandIsAnsweredOnce i s
  refine ⟨t, x, ht, hx, ?_⟩
  rcases exec_response ht hx with ⟨v, rfl⟩ | ⟨st, cause, hr, rfl, -⟩
  · simp [Response.okay]
  · exact hr.not_ownership hg

/-- Settles O21: what does not answer OK was refused, and a refusal only gives its response. -/
theorem refusalsArePrecise : Obligations.RefusalsArePrecise := by
  intro i s t x ht hx hst
  rcases exec_response ht hx with ⟨v, rfl⟩ | ⟨st, cause, -, rfl, rfl⟩
  · exact absurd rfl hst
  · exact ⟨rfl, rfl⟩

/-- Settles O22, by the refusals: an answer OK is in every row of the table, with CAUSE 0. -/
theorem statusesByCommand : Obligations.StatusesByCommand := by
  intro i s t x hinv ht hx
  rcases exec_response ht hx with ⟨v, rfl⟩ | ⟨st, cause, hr, rfl, -⟩
  · exact ⟨ok_mem_mayAnswer i, nofun, fun _ => rfl⟩
  · exact ⟨hr.mem_mayAnswer hinv, hr.cause_range⟩

end Sys2Proof.Machine
end

section
/-! SUPPORT. The safe period change against START (spec/70_reset_and_hazards.md R206) and the two resets (R200, R201). -/

namespace Sys2Proof.Machine

open Sys2Proof.Claims

/-! ### The safe period change (R206, program P4) -/

section
variable {f : Word} {s : State}

/-! What each command of the sequence does in Timer mode, as rewriting rules: the clauses of O25, O24 and O26. -/

theorem exec_pause_timer (ho : s.owner = .timer) :
    exec .pause s = .next (done 0 [.regw .cr 0] { s with cen := false }) :=
  (exec_of_timer rfl ho).trans (respondOk_writeReg_cr false s)

theorem exec_setFreq_timer (ho : s.owner = .timer) (h : Accepted f s.snapClk s.snapDiv) :
    exec (.setFreq f) s =
      .next (done 0 (reprogramEvents (totalCount f s.snapClk s.snapDiv))
        (retimed f (totalCount f s.snapClk s.snapDiv) s)) :=
  (exec_of_timer rfl ho).trans (changePeriod_accepted h)

theorem exec_resetCounter_timer (ho : s.owner = .timer) :
    exec .resetCounter s = .next (done 0 [.regw .cnt 0] { s with cnt := 0 }) := by
  obtain ⟨hreset, -⟩ := resetCounterZeroesCnt s
  exact hreset ho

theorem exec_resume_timer (ho : s.owner = .timer) :
    exec .resume s = .next (done 0 [.regw .cr 1] { s with cen := true }) :=
  (exec_of_timer rfl ho).trans (respondOk_writeReg_cr true s)

/-- PAUSE, SET_FREQ, RESET_COUNTER and RESUME make the register writes of START's one command, in its order (R101);
only the number of responses tells the two apart. -/
theorem play_safePeriodChange {u : State} (ho : s.owner = .timer) (h : Accepted f s.snapClk s.snapDiv)
    (hu : exec (.start f) s = .next u) :
    play [.command .pause, .command (.setFreq f), .command .resetCounter, .command .resume] s =
      .next { u with responses := s.responses ++ List.replicate 4 (.okay 0) } := by
  obtain ⟨hstart, -⟩ := startRestarts f s
  obtain rfl := Host.Outcome.next.inj ((hstart ho h).symm.trans hu)
  simp [play, move, exec_pause_timer, exec_setFreq_timer, exec_resetCounter_timer, exec_resume_timer, ho, h, done,
    retimed, startEvents]

/-- START leaves CNT at 0, below the auto-reload of every accepted frequency (R88 item 1). -/
theorem exec_start_cnt_lt_arr {u : State} (ho : s.owner = .timer) (h : Accepted f s.snapClk s.snapDiv)
    (hu : exec (.start f) s = .next u) : u.cnt.toNat < u.arr.toNat := by
  have hpair := computeTiming_accepted h
  rw [exec_of_timer rfl ho, withTiming_pair hpair] at hu
  rw [respondOk_next hu, startSeq_eq]
  exact (Effect.start ho hpair).restarts (.inl ⟨f, rfl⟩)

end

/-- Settles O52: the run is START but for its responses, and START ends below the auto-reload. -/
theorem safePeriodChangeMatchesStart : Obligations.SafePeriodChangeMatchesStart := by
  intro f s t u ho h hplay hstart
  have hlt := exec_start_cnt_lt_arr ho h hstart
  obtain rfl := Host.Outcome.next.inj ((play_safePeriodChange ho h hstart).symm.trans hplay)
  exact ⟨fun ⟨_, hle⟩ => Nat.not_le.2 hlt hle, rfl⟩

/-! ### The two resets (R200, R201) -/

@[simp] theorem blockReset_chan (s : State) (c : Channel) : (blockReset s).chan c = .reset := by cases c <;> rfl

/-- Settles O53: the step is the block reset, whose channels are in no mode and give no output. -/
theorem blockResetValues : Obligations.BlockResetValues := by
  intro s rest hsched
  refine ⟨blockReset (endTurn s), step_rst (turn_of_sched hsched), rfl, rfl, rfl, rfl, rfl, rfl, rfl, fun c => ?_, rfl,
    fun c => ?_⟩
  · rw [blockReset_chan]
    exact ⟨rfl, rfl, rfl, rfl⟩
  · obtain ⟨houtput, -⟩ := outputIsTheComparison
    obtain ⟨-, hnoMode⟩ := houtput c (blockReset (endTurn s))
    exact hnoMode (by rw [blockReset_chan]; rfl)

/-- Settles O54: the two sides are one state, field by field, with PSC and ARR as the reset leaves them. -/
theorem peripheralResetValues : Obligations.PeripheralResetValues := fun _ => rfl

end Sys2Proof.Machine
end
